-- ==== Sys2Proof/Word.lean ====
section
/-! DEFINITION. Word types of the KE02Z peripheral block (00_scope.md R4, R6): the source's widths are byte (8), word (16)
and double-word (32); a descriptor is 16 bits (30_encoding.md R70). -/

namespace Sys2Proof

/-- A byte: the native register width of WDOG, UART and ICS (R4). -/
abbrev Byte := BitVec 8

/-- A double-word: the native register width of SYST (R4). -/
abbrev DWord := BitVec 32

end Sys2Proof
end

