-- ==== Sys2Proof/Config.lean ====
section
/-! DEFINITION. The implementation parameters of 00_scope.md R4 as one plain record, and the model's free values.
A step reads a parameter from the state's `cfg` and never changes it (R5; log 3). -/

namespace Sys2Proof

/-- Every field of the register tables 10_state.md R23 to R42, named as the table names it. -/
inductive FieldName where
  | systEnable | systTickint | systClksource | systCountflag | systReload | systCurrent | systCalib
  | cs1Stop | cs1Wait | cs1Dbg | cs1Tst | cs1Update | cs1Int | cs1En
  | cs2Clk | cs2Pres | cs2Flg | cs2Win
  | wdogCnth | wdogCntl | wdogTovalh | wdogTovall | wdogWinh | wdogWinl
  | bdhSbr | bdhRxedgie | bdhLbkdie | bdlSbr
  | c1Pt | c1Pe | c1Ilt | c1Wake | c1M | c1Rsrc | c1Uartswai | c1Loops
  | c2Sbk | c2Rwu | c2Re | c2Te | c2Ilie | c2Rie | c2Tcie | c2Tie
  | s1Pf | s1Fe | s1Nf | s1Or | s1Idle | s1Rdrf | s1Tc | s1Tdre
  | s2Raf | s2Lbkde | s2Brk13 | s2Rwuid | s2Rxinv | s2Rxedgif | s2Lbkdif
  | c3Peie | c3Feie | c3Neie | c3Orie | c3Txinv | c3Txdir | c3T8 | c3R8
  | uartD
  | icsIrefsten | icsIrclken | icsIrefs | icsRdiv | icsClks
  | icsLp | icsBdiv | icsSctrim | icsScftrim | icsCme | icsLolie | icsS
deriving DecidableEq, Repr

/-- `P_CURRENT_READ` (R4, decision D16): what a read of SYST CVR or WDOG CNTH/CNTL returns. -/
inductive CurrentRead where
  | stored
  | live
  | either
deriving DecidableEq, Repr

/-- The parameters of 00_scope.md R4, each under the name the rule gives it. -/
structure Params where
  /-- `P_TXWM`, the transmit watermark (44_uart.md R222). -/
  txwm : Nat
  /-- `P_RXWM`, the receive watermark (44_uart.md R222). -/
  rxwm : Nat
  /-- `P_SYST_LIMIT0`, the limit System Tick's Reset() restores (41_timer_core.md R144). -/
  systLimit0 : Nat
  /-- `P_WDOG_LIMIT0`, the limit the Watchdog's Reset() restores (R144). -/
  wdogLimit0 : Nat
  /-- `P_RELOAD_SETS_LIMIT`: whether RVR and TOVAL writes set the timer's limit (R145). -/
  reloadSetsLimit : Bool
  /-- `P_CURRENT_READ`. -/
  currentRead : CurrentRead
  /-- `P_RXPUSH_RECOMPUTE`: whether RXPUSH recomputes the UART line (46_host_events.md R295). -/
  rxpushRecompute : Bool
  /-- `P_SYST_CALIB`, the value of SYST CALIB (42_systick.md R156). -/
  systCalib : DWord
  /-- The fields with `P_FIELDKIND(f) = tagged`; every other field is storage (40_regfile.md R95). -/
  tagged : List FieldName
  rvSystCsr : DWord
  rvSystRvr : DWord
  rvSystCvr : DWord
  rvWdogCnth : Byte
  rvWdogCntl : Byte
  rvWdogTovalh : Byte
  rvWdogTovall : Byte
  rvWdogWinh : Byte
  rvWdogWinl : Byte
  rvUartBdh : Byte
  rvUartBdl : Byte
  rvUartC1 : Byte
  rvUartC2 : Byte
  rvUartS2 : Byte
  rvUartC3 : Byte
  rvUartD : Byte
  rvIcsC1 : Byte
  rvIcsC2 : Byte
  rvIcsC3 : Byte
  rvIcsC4 : Byte
  /-- `RV_ICS_S`, the value of ICS S (45_ics.md R283). -/
  rvIcsS : Byte
  /-- `P_BASE_<dev>`, the device's base in the host's address space (20_memory.md R53). R4 gives its type as "address" and
  no width: the 32 bits are the model's choice (PRESUMED, log 26). -/
  baseSyst : DWord
  baseWdog : DWord
  baseUart : DWord
  baseIcs : DWord
  /-- `P_IRQ_<dev>`, the interrupt-controller input of the device's line (60_exceptions.md R311). -/
  irqSyst : Nat
  irqWdog : Nat
  irqUart : Nat
deriving DecidableEq, Repr

/-- FREE VALUE (log 4): which member of the draw set {stored, live} the n-th draw under `P_CURRENT_READ = Either`
returns (42_systick.md R155, 43_watchdog.md R185): true is the stored value. -/
opaque Config.freeChoice : Nat → Bool

/-- FREE VALUE (log 5): the 24 bits `live(tS)` reads as when the count exceeds the limit, where 41_timer_core.md R146
gives the difference of two natural numbers and states no result. Arguments: limit, count. -/
opaque Config.liveUnderflow : Nat → Nat → BitVec 24

end Sys2Proof
end

