-- ==== Sys2Proof/Syntax.lean ====
section
/-! DEFINITION. The transactions of the block: a descriptor with its operand (30_encoding.md R70), the decoder's view of a
descriptor (R72, R75, R82), and `Instr`, one constructor per row of spec/opcode_table.json. -/

namespace Sys2Proof

/-- The four devices (00_scope.md R11); R74's MACHINE is no device and occurs only in MACHINE_RESET. -/
inductive Device where
  | syst
  | wdog
  | uart
  | ics
deriving DecidableEq, Repr

/-- The two countdown timers `tS` and `tW` (10_state.md R43). -/
inductive TimerId where
  | syst
  | wdog
deriving DecidableEq, Repr

/-- The access widths of 30_encoding.md R73. -/
inductive Width where
  | byte
  | word
  | dword
deriving DecidableEq, Repr

/-- The number n of bytes of an access (R73). -/
def Width.bytes : Width → Nat
  | .byte => 1
  | .word => 2
  | .dword => 4

/-- A transaction's operand or result, of exactly 8n bits, or none (30_encoding.md R70). -/
inductive Data where
  | none
  | byte (v : Byte)
  | word (v : BitVec 16)
  | dword (v : DWord)
deriving DecidableEq, Repr

/-- A transaction as an agent offers it (30_encoding.md R70). -/
structure Transaction where
  desc : BitVec 16
  wdata : Data
deriving DecidableEq, Repr

/-- What 30_encoding.md R82's `decode` returns for a legal descriptor. -/
inductive Desc where
  | access (dev : Device) (write : Bool) (w : Width) (off : BitVec 8)
  | rxPush (byte : Byte)
  | tick (t : TimerId)
  | reset (dev : Device)
  | machineReset
deriving DecidableEq, Repr

/-- Why a transaction is refused (30_encoding.md R81, R82; 60_exceptions.md R301). -/
inductive DecodeError where
  /-- A reserved KIND, DEV, W or EV, an unlisted event pair, a nonzero ARG (R301). -/
  | illegal
  /-- A SYST access not 32 bits wide or not at a multiple of 4, within SYST's 16 bytes (R301). -/
  | badWidth
  /-- A byte of the access at or beyond the device's size (R301). -/
  | outOfRange
  /-- The operand is not the one the descriptor fixes, so the pair is no transaction by R70 (log 13). -/
  | operandMismatch
deriving DecidableEq, Repr

/-- One constructor per row of spec/opcode_table.json; `wdata` is a write's operand, `off` the OFF field of a wide access,
`byte` RXPUSH's ARG. -/
inductive Instr where
  -- SYST registers (42_systick.md)
  /-- `RD32.SYST.CSR`, 42_systick.md R157. -/
  | rd32SystCsr
  /-- `WR32.SYST.CSR`, 42_systick.md R158. -/
  | wr32SystCsr (wdata : DWord)
  /-- `RD32.SYST.RVR`, 42_systick.md R159. -/
  | rd32SystRvr
  /-- `WR32.SYST.RVR`, 42_systick.md R160. -/
  | wr32SystRvr (wdata : DWord)
  /-- `RD32.SYST.CVR`, 42_systick.md R161. -/
  | rd32SystCvr
  /-- `WR32.SYST.CVR`, 42_systick.md R162. -/
  | wr32SystCvr (wdata : DWord)
  /-- `RD32.SYST.CALIB`, 42_systick.md R163. -/
  | rd32SystCalib
  /-- `WR32.SYST.CALIB`, 42_systick.md R164. -/
  | wr32SystCalib (wdata : DWord)
  -- WDOG byte registers (43_watchdog.md)
  /-- `RD8.WDOG.CS1`, 43_watchdog.md R188. -/
  | rd8WdogCs1
  /-- `WR8.WDOG.CS1`, 43_watchdog.md R189. -/
  | wr8WdogCs1 (wdata : Byte)
  /-- `RD8.WDOG.CS2`, 43_watchdog.md R190. -/
  | rd8WdogCs2
  /-- `WR8.WDOG.CS2`, 43_watchdog.md R191. -/
  | wr8WdogCs2 (wdata : Byte)
  /-- `RD8.WDOG.CNTH`, 43_watchdog.md R192. -/
  | rd8WdogCnth
  /-- `WR8.WDOG.CNTH`, 43_watchdog.md R193. -/
  | wr8WdogCnth (wdata : Byte)
  /-- `RD8.WDOG.CNTL`, 43_watchdog.md R194. -/
  | rd8WdogCntl
  /-- `WR8.WDOG.CNTL`, 43_watchdog.md R195. -/
  | wr8WdogCntl (wdata : Byte)
  /-- `RD8.WDOG.TOVALH`, 43_watchdog.md R196. -/
  | rd8WdogTovalh
  /-- `WR8.WDOG.TOVALH`, 43_watchdog.md R197. -/
  | wr8WdogTovalh (wdata : Byte)
  /-- `RD8.WDOG.TOVALL`, 43_watchdog.md R198. -/
  | rd8WdogTovall
  /-- `WR8.WDOG.TOVALL`, 43_watchdog.md R199. -/
  | wr8WdogTovall (wdata : Byte)
  /-- `RD8.WDOG.WINH`, 43_watchdog.md R200. -/
  | rd8WdogWinh
  /-- `WR8.WDOG.WINH`, 43_watchdog.md R201. -/
  | wr8WdogWinh (wdata : Byte)
  /-- `RD8.WDOG.WINL`, 43_watchdog.md R202. -/
  | rd8WdogWinl
  /-- `WR8.WDOG.WINL`, 43_watchdog.md R203. -/
  | wr8WdogWinl (wdata : Byte)
  -- UART byte registers (44_uart.md)
  /-- `RD8.UART.BDH`, 44_uart.md R245. -/
  | rd8UartBdh
  /-- `WR8.UART.BDH`, 44_uart.md R246. -/
  | wr8UartBdh (wdata : Byte)
  /-- `RD8.UART.BDL`, 44_uart.md R247. -/
  | rd8UartBdl
  /-- `WR8.UART.BDL`, 44_uart.md R248. -/
  | wr8UartBdl (wdata : Byte)
  /-- `RD8.UART.C1`, 44_uart.md R249. -/
  | rd8UartC1
  /-- `WR8.UART.C1`, 44_uart.md R250. -/
  | wr8UartC1 (wdata : Byte)
  /-- `RD8.UART.C2`, 44_uart.md R251. -/
  | rd8UartC2
  /-- `WR8.UART.C2`, 44_uart.md R252. -/
  | wr8UartC2 (wdata : Byte)
  /-- `RD8.UART.S1`, 44_uart.md R253. -/
  | rd8UartS1
  /-- `WR8.UART.S1`, 44_uart.md R254. -/
  | wr8UartS1 (wdata : Byte)
  /-- `RD8.UART.S2`, 44_uart.md R255. -/
  | rd8UartS2
  /-- `WR8.UART.S2`, 44_uart.md R256. -/
  | wr8UartS2 (wdata : Byte)
  /-- `RD8.UART.C3`, 44_uart.md R257. -/
  | rd8UartC3
  /-- `WR8.UART.C3`, 44_uart.md R258. -/
  | wr8UartC3 (wdata : Byte)
  /-- `RD8.UART.D`, 44_uart.md R259. -/
  | rd8UartD
  /-- `WR8.UART.D`, 44_uart.md R260. -/
  | wr8UartD (wdata : Byte)
  -- ICS byte registers (45_ics.md)
  /-- `RD8.ICS.C1`, 45_ics.md R275. -/
  | rd8IcsC1
  /-- `WR8.ICS.C1`, 45_ics.md R276. -/
  | wr8IcsC1 (wdata : Byte)
  /-- `RD8.ICS.C2`, 45_ics.md R277. -/
  | rd8IcsC2
  /-- `WR8.ICS.C2`, 45_ics.md R278. -/
  | wr8IcsC2 (wdata : Byte)
  /-- `RD8.ICS.C3`, 45_ics.md R279. -/
  | rd8IcsC3
  /-- `WR8.ICS.C3`, 45_ics.md R280. -/
  | wr8IcsC3 (wdata : Byte)
  /-- `RD8.ICS.C4`, 45_ics.md R281. -/
  | rd8IcsC4
  /-- `WR8.ICS.C4`, 45_ics.md R282. -/
  | wr8IcsC4 (wdata : Byte)
  /-- `RD8.ICS.S`, 45_ics.md R283. -/
  | rd8IcsS
  /-- `WR8.ICS.S`, 45_ics.md R284. -/
  | wr8IcsS (wdata : Byte)
  -- wide accesses through the width adapter (40_regfile.md)
  /-- `RD16.WDOG`, 40_regfile.md R110. -/
  | rd16Wdog (off : BitVec 8)
  /-- `WR16.WDOG`, 40_regfile.md R111. -/
  | wr16Wdog (off : BitVec 8) (wdata : BitVec 16)
  /-- `RD32.WDOG`, 40_regfile.md R112. -/
  | rd32Wdog (off : BitVec 8)
  /-- `WR32.WDOG`, 40_regfile.md R113. -/
  | wr32Wdog (off : BitVec 8) (wdata : DWord)
  /-- `RD16.UART`, 40_regfile.md R114. -/
  | rd16Uart (off : BitVec 8)
  /-- `WR16.UART`, 40_regfile.md R115. -/
  | wr16Uart (off : BitVec 8) (wdata : BitVec 16)
  /-- `RD32.UART`, 40_regfile.md R116. -/
  | rd32Uart (off : BitVec 8)
  /-- `WR32.UART`, 40_regfile.md R117. -/
  | wr32Uart (off : BitVec 8) (wdata : DWord)
  /-- `RD16.ICS`, 40_regfile.md R118. -/
  | rd16Ics (off : BitVec 8)
  /-- `WR16.ICS`, 40_regfile.md R119. -/
  | wr16Ics (off : BitVec 8) (wdata : BitVec 16)
  /-- `RD32.ICS`, 40_regfile.md R120. -/
  | rd32Ics (off : BitVec 8)
  /-- `WR32.ICS`, 40_regfile.md R121. -/
  | wr32Ics (off : BitVec 8) (wdata : DWord)
  -- clock ticks (41_timer_core.md)
  /-- `TICK.SYST`, 41_timer_core.md R140. -/
  | tickSyst
  /-- `TICK.WDOG`, 41_timer_core.md R141. -/
  | tickWdog
  -- host events (46_host_events.md)
  /-- `RESET.SYST`, 46_host_events.md R290. -/
  | resetSyst
  /-- `RESET.WDOG`, 46_host_events.md R291. -/
  | resetWdog
  /-- `RESET.UART`, 46_host_events.md R292. -/
  | resetUart
  /-- `RESET.ICS`, 46_host_events.md R293. -/
  | resetIcs
  /-- `MACHINE_RESET`, 46_host_events.md R294. -/
  | machineReset
  /-- `RXPUSH`, 46_host_events.md R295. -/
  | rxpush (byte : Byte)
deriving DecidableEq, Repr

end Sys2Proof
end

