-- ==== Sys2Proof/Machine/Fields.lean ====
section
/-! DEFINITION. The registers and field tables of 10_state.md R23 to R42, in the form 40_regfile.md R91 gives a field, and the
masks and reset values that follow from them. -/

namespace Sys2Proof.Machine

/-- The 32-bit registers of SYST (20_memory.md R51). -/
inductive Reg32 where
  | csr
  | rvr
  | cvr
  | calib
deriving DecidableEq, Repr

/-- The byte registers of WDOG, UART and ICS (R51). -/
inductive Reg8 where
  | wdogCs1 | wdogCs2 | wdogCnth | wdogCntl | wdogTovalh | wdogTovall | wdogWinh | wdogWinl
  | uartBdh | uartBdl | uartC1 | uartC2 | uartS1 | uartS2 | uartC3 | uartD
  | icsC1 | icsC2 | icsC3 | icsC4 | icsS
deriving DecidableEq, Repr

/-- Declared access modes (00_scope.md R8); `tagged` is the mode an inert field takes under `P_FIELDKIND` (R95). -/
inductive Access where
  | ro
  | wo
  | rw
  | tagged
deriving DecidableEq, Repr

/-- The read providers of the block (R91, R93). -/
inductive Provider where
  /-- A flag the block never sets: reads 0 (decisions D27, D28). -/
  | zero
  /-- 44_uart.md R223. -/
  | tdre
  /-- R224. -/
  | tc
  /-- R225. -/
  | rdrf
  /-- SYST CALIB (42_systick.md R156). -/
  | calib
  /-- SYST CVR (R155). -/
  | current
  /-- WDOG CNTH (43_watchdog.md R185). -/
  | counterHigh
  /-- WDOG CNTL (R185). -/
  | counterLow
  /-- UART D's `ReadData` (44_uart.md R239). -/
  | readData
  /-- ICS S (45_ics.md R283). -/
  | icsStatus
deriving DecidableEq, Repr

/-- The write effects of the block (R91, R92). -/
inductive Effect where
  /-- The enable field's effect (41_timer_core.md R131). -/
  | enable
  /-- SYST RVR (42_systick.md R153). -/
  | reload
  /-- WDOG TOVALH and TOVALL (43_watchdog.md R183). -/
  | timeout
  /-- UART D's `WriteData` (44_uart.md R236). -/
  | writeData
deriving DecidableEq, Repr

/-- A field (40_regfile.md R91). A field may have both a provider and an effect; `inert` marks a field "none in source;
stored", whose kind is `P_FIELDKIND` (R95). Its reset value is its slice of the register's reset value. -/
structure Field where
  name : FieldName
  lo : Nat
  width : Nat
  access : Access
  inert : Bool
  provider : Option Provider
  effect : Option Effect
deriving DecidableEq, Repr

/-- An RW field with a meaning but no side effect. -/
def plainField (name : FieldName) (lo width : Nat) : Field := ⟨name, lo, width, .rw, false, none, none⟩

/-- An RW field the source gives no behaviour: storage or tagged by `P_FIELDKIND` (R95; log 18). -/
def inertField (name : FieldName) (lo width : Nat) : Field := ⟨name, lo, width, .rw, true, none, none⟩

/-- A read-only field, computed at the read. -/
def computedField (name : FieldName) (lo width : Nat) (p : Provider) : Field := ⟨name, lo, width, .ro, false, some p, none⟩

/-- An RW field with a write effect. -/
def effectField (name : FieldName) (lo width : Nat) (e : Effect) : Field := ⟨name, lo, width, .rw, false, none, some e⟩

/-- The field tables of SYST (10_state.md R23 to R26), in ascending bit order. -/
def fields32 : Reg32 → List Field
  | .csr => [effectField .systEnable 0 1 .enable, plainField .systTickint 1 1, inertField .systClksource 2 1,
      computedField .systCountflag 16 1 .zero]
  | .rvr => [effectField .systReload 0 24 .reload]
  | .cvr => [⟨.systCurrent, 0, 24, .rw, false, some .current, none⟩]
  | .calib => [computedField .systCalib 0 32 .calib]

/-- The field tables of WDOG (R27 to R29), UART (R30 to R37) and ICS (R38 to R42), in ascending bit order. -/
def fields8 : Reg8 → List Field
  | .wdogCs1 => [inertField .cs1Stop 0 1, inertField .cs1Wait 1 1, inertField .cs1Dbg 2 1, inertField .cs1Tst 3 2,
      inertField .cs1Update 5 1, plainField .cs1Int 6 1, effectField .cs1En 7 1 .enable]
  | .wdogCs2 => [plainField .cs2Clk 0 2, inertField .cs2Pres 4 1, inertField .cs2Flg 6 1, inertField .cs2Win 7 1]
  | .wdogCnth => [⟨.wdogCnth, 0, 8, .rw, false, some .counterHigh, none⟩]
  | .wdogCntl => [⟨.wdogCntl, 0, 8, .rw, false, some .counterLow, none⟩]
  | .wdogTovalh => [effectField .wdogTovalh 0 8 .timeout]
  | .wdogTovall => [effectField .wdogTovall 0 8 .timeout]
  | .wdogWinh => [inertField .wdogWinh 0 8]
  | .wdogWinl => [inertField .wdogWinl 0 8]
  | .uartBdh => [inertField .bdhSbr 0 5, inertField .bdhRxedgie 6 1, inertField .bdhLbkdie 7 1]
  | .uartBdl => [inertField .bdlSbr 0 8]
  | .uartC1 => [inertField .c1Pt 0 1, inertField .c1Pe 1 1, inertField .c1Ilt 2 1, inertField .c1Wake 3 1,
      inertField .c1M 4 1, inertField .c1Rsrc 5 1, inertField .c1Uartswai 6 1, inertField .c1Loops 7 1]
  | .uartC2 => [inertField .c2Sbk 0 1, inertField .c2Rwu 1 1, plainField .c2Re 2 1, plainField .c2Te 3 1,
      inertField .c2Ilie 4 1, plainField .c2Rie 5 1, inertField .c2Tcie 6 1, plainField .c2Tie 7 1]
  | .uartS1 => [computedField .s1Pf 0 1 .zero, computedField .s1Fe 1 1 .zero, computedField .s1Nf 2 1 .zero,
      computedField .s1Or 3 1 .zero, computedField .s1Idle 4 1 .zero, computedField .s1Rdrf 5 1 .rdrf,
      computedField .s1Tc 6 1 .tc, computedField .s1Tdre 7 1 .tdre]
  | .uartS2 => [computedField .s2Raf 0 1 .zero, inertField .s2Lbkde 1 1, inertField .s2Brk13 2 1,
      inertField .s2Rwuid 3 1, inertField .s2Rxinv 4 1, computedField .s2Rxedgif 6 1 .zero,
      computedField .s2Lbkdif 7 1 .zero]
  | .uartC3 => [inertField .c3Peie 0 1, inertField .c3Feie 1 1, inertField .c3Neie 2 1, inertField .c3Orie 3 1,
      inertField .c3Txinv 4 1, inertField .c3Txdir 5 1, inertField .c3T8 6 1, computedField .c3R8 7 1 .zero]
  | .uartD => [⟨.uartD, 0, 8, .rw, false, some .readData, some .writeData⟩]
  | .icsC1 => [inertField .icsIrefsten 0 1, inertField .icsIrclken 1 1, plainField .icsIrefs 2 1,
      inertField .icsRdiv 3 3, plainField .icsClks 6 2]
  | .icsC2 => [plainField .icsLp 4 1, inertField .icsBdiv 5 3]
  | .icsC3 => [inertField .icsSctrim 0 8]
  | .icsC4 => [inertField .icsScftrim 0 1, inertField .icsCme 5 1, inertField .icsLolie 7 1]
  | .icsS => [computedField .icsS 0 8 .icsStatus]

/-- The byte register at an offset of a byte-native device (20_memory.md R51, R52); none at SYST and beyond the size. -/
def byteReg : Device → Nat → Option Reg8
  | .wdog, 0 => some .wdogCs1
  | .wdog, 1 => some .wdogCs2
  | .wdog, 2 => some .wdogCnth
  | .wdog, 3 => some .wdogCntl
  | .wdog, 4 => some .wdogTovalh
  | .wdog, 5 => some .wdogTovall
  | .wdog, 6 => some .wdogWinh
  | .wdog, 7 => some .wdogWinl
  | .uart, 0 => some .uartBdh
  | .uart, 1 => some .uartBdl
  | .uart, 2 => some .uartC1
  | .uart, 3 => some .uartC2
  | .uart, 4 => some .uartS1
  | .uart, 5 => some .uartS2
  | .uart, 6 => some .uartC3
  | .uart, 7 => some .uartD
  | .ics, 0 => some .icsC1
  | .ics, 1 => some .icsC2
  | .ics, 2 => some .icsC3
  | .ics, 3 => some .icsC4
  | .ics, 4 => some .icsS
  | _, _ => none

/-- A field's access under the parameters (R95): an inert field with `P_FIELDKIND(f) = tagged` is Tagged. -/
def Field.mode (cfg : Params) (f : Field) : Access :=
  if f.inert && cfg.tagged.contains f.name then .tagged else f.access

/-- The bits a field covers in a register of `w` bits. -/
def fieldMask (w : Nat) (f : Field) : BitVec w :=
  ((BitVec.allOnes f.width).setWidth w) <<< f.lo

/-- Whether a field holds stored state: an RW or WO field does, a tagged or read-only one does not (10_state.md R22). -/
def Field.holdsState (cfg : Params) (f : Field) : Bool :=
  match f.mode cfg with
  | .rw => true
  | .wo => true
  | .ro => false
  | .tagged => false

/-- The bits of a register that hold state: those of its fields that do. -/
def storedMask (w : Nat) (cfg : Params) : List Field → BitVec w
  | [] => 0
  | f :: fs => (if f.holdsState cfg then fieldMask w f else 0) ||| storedMask w cfg fs

/-- The bits of a register some field covers; the others are reserved (R91). -/
def coveredMask (w : Nat) : List Field → BitVec w
  | [] => 0
  | f :: fs => fieldMask w f ||| coveredMask w fs

/-- How many of a register's fields are tagged: so many warnings a write records (R92). -/
def taggedCount (cfg : Params) : List Field → Nat
  | [] => 0
  | f :: fs => (if f.mode cfg = .tagged then 1 else 0) + taggedCount cfg fs

/-- A register's declared reset value (10_state.md R47): ENABLE is 0 by the source whatever `RV_SYST_CSR` is (R23; log 16);
CALIB has no stored state. -/
def resetValue32 (cfg : Params) : Reg32 → DWord
  | .csr => cfg.rvSystCsr &&& ~~~1#32
  | .rvr => cfg.rvSystRvr
  | .cvr => cfg.rvSystCvr
  | .calib => 0

/-- A byte register's declared reset value (R47): CS1 and CS2 are the source's, the rest the parameters `RV_*`; S1 and ICS S
have no stored state. -/
def resetValue8 (cfg : Params) : Reg8 → Byte
  | .wdogCs1 => 0x80
  | .wdogCs2 => 0x01
  | .wdogCnth => cfg.rvWdogCnth
  | .wdogCntl => cfg.rvWdogCntl
  | .wdogTovalh => cfg.rvWdogTovalh
  | .wdogTovall => cfg.rvWdogTovall
  | .wdogWinh => cfg.rvWdogWinh
  | .wdogWinl => cfg.rvWdogWinl
  | .uartBdh => cfg.rvUartBdh
  | .uartBdl => cfg.rvUartBdl
  | .uartC1 => cfg.rvUartC1
  | .uartC2 => cfg.rvUartC2
  | .uartS1 => 0
  | .uartS2 => cfg.rvUartS2
  | .uartC3 => cfg.rvUartC3
  | .uartD => cfg.rvUartD
  | .icsC1 => cfg.rvIcsC1
  | .icsC2 => cfg.rvIcsC2
  | .icsC3 => cfg.rvIcsC3
  | .icsC4 => cfg.rvIcsC4
  | .icsS => 0

/-- What a SYST register stores after Reset() (40_regfile.md R94): each field with stored state at its reset value. -/
def storedReset32 (cfg : Params) (r : Reg32) : DWord :=
  resetValue32 cfg r &&& storedMask 32 cfg (fields32 r)

/-- What a byte register stores after Reset() (R94). -/
def storedReset8 (cfg : Params) (r : Reg8) : Byte :=
  resetValue8 cfg r &&& storedMask 8 cfg (fields8 r)

/-- The parameters `State.reset` is built with. The watermarks, `P_RELOAD_SETS_LIMIT`, `P_CURRENT_READ`, `P_FIELDKIND` and
`RV_*` are the defaults of 00_scope.md R4 and 10_state.md R47 (log 11). DESIGN CHOICE: the limits (log 8),
`P_RXPUSH_RECOMPUTE` and `P_SYST_CALIB` (log 9), `RV_ICS_C3` (log 7). PRESUMED: bases and interrupt inputs (log 10). -/
def defaultParams : Params where
  txwm := 0
  rxwm := 1
  systLimit0 := 0xFFFFFF
  wdogLimit0 := 4
  reloadSetsLimit := false
  currentRead := .either
  rxpushRecompute := false
  systCalib := 0
  tagged := []
  rvSystCsr := 0
  rvSystRvr := 0
  rvSystCvr := 0
  rvWdogCnth := 0
  rvWdogCntl := 0
  rvWdogTovalh := 0
  rvWdogTovall := 0x04
  rvWdogWinh := 0
  rvWdogWinl := 0
  rvUartBdh := 0
  rvUartBdl := 0x04
  rvUartC1 := 0
  rvUartC2 := 0
  rvUartS2 := 0
  rvUartC3 := 0
  rvUartD := 0
  rvIcsC1 := 0x04
  rvIcsC2 := 0x20
  rvIcsC3 := 0
  rvIcsC4 := 0
  rvIcsS := 0x10
  baseSyst := 0xE000E010
  baseWdog := 0x40052000
  baseUart := 0x4006A000
  baseIcs := 0x40064000
  irqSyst := 15
  irqWdog := 28
  irqUart := 12

end Sys2Proof.Machine
end

