-- ==== Sys2Proof/Machine/Operands.lean ====
section
/-! DEFINITION. Operand assembly (30_encoding.md R77): how a wide access at a byte-native device splits its operand into bytes
and joins bytes into its result, most significant byte first (20_memory.md R54, 40_regfile.md R101), and the registers an
access covers. -/

namespace Sys2Proof.Machine

/-- `v[8(n-k)-1 : 8(n-k-1)]` for k = 0 .. n-1: the byte at the lowest offset is the most significant (R54, R101). -/
def splitBytes {w : Nat} : (n : Nat) → BitVec w → List Byte
  | 0, _ => []
  | n + 1, v => (v >>> (8 * n)).setWidth 8 :: splitBytes n v

/-- R101's `r = (r << 8) | byte`, from `r`, in address order. -/
def joinBytesFrom {w : Nat} : BitVec w → List Byte → BitVec w
  | r, [] => r
  | r, b :: bs => joinBytesFrom ((r <<< 8) ||| b.setWidth w) bs

/-- A wide read's result from the bytes read (R103). -/
def joinBytes (w : Nat) (bs : List Byte) : BitVec w :=
  joinBytesFrom 0 bs

/-- The registers at offsets off .. off+n-1, in address order; none when one of them does not exist (40_regfile.md R98). -/
def regsAt (dev : Device) : (off n : Nat) → Option (List Reg8)
  | _, 0 => some []
  | off, n + 1 =>
    match byteReg dev off, regsAt dev (off + 1) n with
    | some r, some rs => some (r :: rs)
    | _, _ => none

end Sys2Proof.Machine
end

