-- ==== Sys2Proof/WellFormed.lean ====
section
/-! DEFINITION. Well-formed instructions: the only operand a descriptor does not fix to its whole range is the offset of a
wide access, legal iff OFF + n is at most the device's size (20_memory.md R56, 30_encoding.md R76). -/

namespace Sys2Proof

/-- Declared sizes in bytes, `SIZE_<dev>` (00_scope.md R4). -/
def deviceSize : Device → Nat
  | .syst => 16
  | .wdog => 8
  | .uart => 8
  | .ics => 5

/-- R56 for the byte-native devices: every byte of the access lies within the device's size. -/
def wideLegal (dev : Device) (w : Width) (off : BitVec 8) : Bool :=
  decide (off.toNat + w.bytes ≤ deviceSize dev)

/-- R76: the operands are legal. -/
def Instr.wf : Instr → Bool
  | .rd32SystCsr => true
  | .wr32SystCsr _ => true
  | .rd32SystRvr => true
  | .wr32SystRvr _ => true
  | .rd32SystCvr => true
  | .wr32SystCvr _ => true
  | .rd32SystCalib => true
  | .wr32SystCalib _ => true
  | .rd8WdogCs1 => true
  | .wr8WdogCs1 _ => true
  | .rd8WdogCs2 => true
  | .wr8WdogCs2 _ => true
  | .rd8WdogCnth => true
  | .wr8WdogCnth _ => true
  | .rd8WdogCntl => true
  | .wr8WdogCntl _ => true
  | .rd8WdogTovalh => true
  | .wr8WdogTovalh _ => true
  | .rd8WdogTovall => true
  | .wr8WdogTovall _ => true
  | .rd8WdogWinh => true
  | .wr8WdogWinh _ => true
  | .rd8WdogWinl => true
  | .wr8WdogWinl _ => true
  | .rd8UartBdh => true
  | .wr8UartBdh _ => true
  | .rd8UartBdl => true
  | .wr8UartBdl _ => true
  | .rd8UartC1 => true
  | .wr8UartC1 _ => true
  | .rd8UartC2 => true
  | .wr8UartC2 _ => true
  | .rd8UartS1 => true
  | .wr8UartS1 _ => true
  | .rd8UartS2 => true
  | .wr8UartS2 _ => true
  | .rd8UartC3 => true
  | .wr8UartC3 _ => true
  | .rd8UartD => true
  | .wr8UartD _ => true
  | .rd8IcsC1 => true
  | .wr8IcsC1 _ => true
  | .rd8IcsC2 => true
  | .wr8IcsC2 _ => true
  | .rd8IcsC3 => true
  | .wr8IcsC3 _ => true
  | .rd8IcsC4 => true
  | .wr8IcsC4 _ => true
  | .rd8IcsS => true
  | .wr8IcsS _ => true
  | .rd16Wdog off => wideLegal .wdog .word off
  | .wr16Wdog off _ => wideLegal .wdog .word off
  | .rd32Wdog off => wideLegal .wdog .dword off
  | .wr32Wdog off _ => wideLegal .wdog .dword off
  | .rd16Uart off => wideLegal .uart .word off
  | .wr16Uart off _ => wideLegal .uart .word off
  | .rd32Uart off => wideLegal .uart .dword off
  | .wr32Uart off _ => wideLegal .uart .dword off
  | .rd16Ics off => wideLegal .ics .word off
  | .wr16Ics off _ => wideLegal .ics .word off
  | .rd32Ics off => wideLegal .ics .dword off
  | .wr32Ics off _ => wideLegal .ics .dword off
  | .tickSyst => true
  | .tickWdog => true
  | .resetSyst => true
  | .resetWdog => true
  | .resetUart => true
  | .resetIcs => true
  | .machineReset => true
  | .rxpush _ => true

end Sys2Proof
end

