-- ==== Sys2Proof/Decode.lean ====
section
/-! DEFINITION. The decoder of 30_encoding.md R82, total on every transaction and refusing by name, and after it the encoder of
R78, with the opcode table's match and mask values (R78's table) beside it. -/

namespace Sys2Proof

/-- The field of `len` bits at bit `lo` of a descriptor, as a number (R71 to R75). -/
def descField (d : BitVec 16) (lo len : Nat) : Nat :=
  (d.toNat >>> lo) % 2 ^ len

/-- DEV (R74): the device codes; 111 is MACHINE and 100 to 110 are reserved. -/
def deviceOf : Nat → Option Device
  | 0 => some .syst
  | 1 => some .wdog
  | 2 => some .uart
  | 3 => some .ics
  | _ => none

/-- W (R73): 11 is reserved. -/
def widthOf : Nat → Option Width
  | 0 => some .byte
  | 1 => some .word
  | 2 => some .dword
  | _ => none

/-- R82's branch for KIND 00. -/
def decodeAccess (dev dir w off : Nat) : Except DecodeError Desc :=
  match deviceOf dev, widthOf w with
  | some dv, some wd =>
    if dv = .syst then
      if wd ≠ .dword ∨ off % 4 ≠ 0 then
        if off < 16 then .error .badWidth else .error .outOfRange
      else if off > 0xC then .error .outOfRange
      else .ok (.access dv (dir == 1) wd (BitVec.ofNat 8 off))
    else if off + wd.bytes > deviceSize dv then .error .outOfRange
    else .ok (.access dv (dir == 1) wd (BitVec.ofNat 8 off))
  | _, _ => .error .illegal

/-- R82's branch for KIND 01. -/
def decodeEvent (dev ev arg : Nat) : Except DecodeError Desc :=
  if dev = 2 ∧ ev = 2 then .ok (.rxPush (BitVec.ofNat 8 arg))
  else if arg ≠ 0 then .error .illegal
  else match ev, dev with
    | 0, 0 => .ok (.tick .syst)
    | 0, 1 => .ok (.tick .wdog)
    | 1, 0 => .ok (.reset .syst)
    | 1, 1 => .ok (.reset .wdog)
    | 1, 2 => .ok (.reset .uart)
    | 1, 3 => .ok (.reset .ics)
    | 1, 7 => .ok .machineReset
    | _, _ => .error .illegal

/-- `decode(d)` of R82: KIND is `d[15:14]`. -/
def decodeDesc (d : BitVec 16) : Except DecodeError Desc :=
  match descField d 14 2 with
  | 0 => decodeAccess (descField d 11 3) (descField d 10 1) (descField d 8 2) (descField d 0 8)
  | 1 => decodeEvent (descField d 11 3) (descField d 8 3) (descField d 0 8)
  | _ => .error .illegal

/-- The 32-bit reads of SYST (20_memory.md R51, R56). -/
def systRead (off : Nat) : Option Instr :=
  match off with
  | 0 => some .rd32SystCsr
  | 4 => some .rd32SystRvr
  | 8 => some .rd32SystCvr
  | 12 => some .rd32SystCalib
  | _ => none

/-- The 32-bit writes of SYST. -/
def systWrite (off : Nat) (v : DWord) : Option Instr :=
  match off with
  | 0 => some (.wr32SystCsr v)
  | 4 => some (.wr32SystRvr v)
  | 8 => some (.wr32SystCvr v)
  | 12 => some (.wr32SystCalib v)
  | _ => none

/-- The byte reads of WDOG (R51). -/
def wdogRead (off : Nat) : Option Instr :=
  match off with
  | 0 => some .rd8WdogCs1
  | 1 => some .rd8WdogCs2
  | 2 => some .rd8WdogCnth
  | 3 => some .rd8WdogCntl
  | 4 => some .rd8WdogTovalh
  | 5 => some .rd8WdogTovall
  | 6 => some .rd8WdogWinh
  | 7 => some .rd8WdogWinl
  | _ => none

/-- The byte writes of WDOG. -/
def wdogWrite (off : Nat) (v : Byte) : Option Instr :=
  match off with
  | 0 => some (.wr8WdogCs1 v)
  | 1 => some (.wr8WdogCs2 v)
  | 2 => some (.wr8WdogCnth v)
  | 3 => some (.wr8WdogCntl v)
  | 4 => some (.wr8WdogTovalh v)
  | 5 => some (.wr8WdogTovall v)
  | 6 => some (.wr8WdogWinh v)
  | 7 => some (.wr8WdogWinl v)
  | _ => none

/-- The byte reads of UART (R51). -/
def uartRead (off : Nat) : Option Instr :=
  match off with
  | 0 => some .rd8UartBdh
  | 1 => some .rd8UartBdl
  | 2 => some .rd8UartC1
  | 3 => some .rd8UartC2
  | 4 => some .rd8UartS1
  | 5 => some .rd8UartS2
  | 6 => some .rd8UartC3
  | 7 => some .rd8UartD
  | _ => none

/-- The byte writes of UART. -/
def uartWrite (off : Nat) (v : Byte) : Option Instr :=
  match off with
  | 0 => some (.wr8UartBdh v)
  | 1 => some (.wr8UartBdl v)
  | 2 => some (.wr8UartC1 v)
  | 3 => some (.wr8UartC2 v)
  | 4 => some (.wr8UartS1 v)
  | 5 => some (.wr8UartS2 v)
  | 6 => some (.wr8UartC3 v)
  | 7 => some (.wr8UartD v)
  | _ => none

/-- The byte reads of ICS (R51). -/
def icsRead (off : Nat) : Option Instr :=
  match off with
  | 0 => some .rd8IcsC1
  | 1 => some .rd8IcsC2
  | 2 => some .rd8IcsC3
  | 3 => some .rd8IcsC4
  | 4 => some .rd8IcsS
  | _ => none

/-- The byte writes of ICS. -/
def icsWrite (off : Nat) (v : Byte) : Option Instr :=
  match off with
  | 0 => some (.wr8IcsC1 v)
  | 1 => some (.wr8IcsC2 v)
  | 2 => some (.wr8IcsC3 v)
  | 3 => some (.wr8IcsC4 v)
  | 4 => some (.wr8IcsS v)
  | _ => none

/-- The read transaction of an access (R78's table). -/
def readAccess : Device → Width → BitVec 8 → Option Instr
  | .syst, .dword, off => systRead off.toNat
  | .syst, .byte, _ => none
  | .syst, .word, _ => none
  | .wdog, .byte, off => wdogRead off.toNat
  | .wdog, .word, off => some (.rd16Wdog off)
  | .wdog, .dword, off => some (.rd32Wdog off)
  | .uart, .byte, off => uartRead off.toNat
  | .uart, .word, off => some (.rd16Uart off)
  | .uart, .dword, off => some (.rd32Uart off)
  | .ics, .byte, off => icsRead off.toNat
  | .ics, .word, off => some (.rd16Ics off)
  | .ics, .dword, off => some (.rd32Ics off)

/-- The write transaction of an access, whose operand fixes its width (R70, R78). -/
def writeAccess : Device → BitVec 8 → Data → Option Instr
  | _, _, .none => none
  | .syst, off, .dword v => systWrite off.toNat v
  | .syst, _, .byte _ => none
  | .syst, _, .word _ => none
  | .wdog, off, .byte v => wdogWrite off.toNat v
  | .wdog, off, .word v => some (.wr16Wdog off v)
  | .wdog, off, .dword v => some (.wr32Wdog off v)
  | .uart, off, .byte v => uartWrite off.toNat v
  | .uart, off, .word v => some (.wr16Uart off v)
  | .uart, off, .dword v => some (.wr32Uart off v)
  | .ics, off, .byte v => icsWrite off.toNat v
  | .ics, off, .word v => some (.wr16Ics off v)
  | .ics, off, .dword v => some (.wr32Ics off v)

/-- The width of an operand. -/
def Data.width : Data → Option Width
  | .none => Option.none
  | .byte _ => some .byte
  | .word _ => some .word
  | .dword _ => some .dword

/-- The event transactions (R75, R78). -/
def eventInstr : Desc → Option Instr
  | .rxPush b => some (.rxpush b)
  | .tick .syst => some .tickSyst
  | .tick .wdog => some .tickWdog
  | .reset .syst => some .resetSyst
  | .reset .wdog => some .resetWdog
  | .reset .uart => some .resetUart
  | .reset .ics => some .resetIcs
  | .machineReset => some .machineReset
  | .access _ _ _ _ => none

/-- The table row a decoded descriptor stands for, with its operand (R70, R78): a write takes an operand of exactly 8n bits,
a read and an event none; any other pair is no transaction (log 13). -/
def instrOf (x : Desc) (d : Data) : Option Instr :=
  match x with
  | .access dev false w off => if d.width = none then readAccess dev w off else none
  | .access dev true w off => if d.width = some w then writeAccess dev off d else none
  | _ => if d.width = none then eventInstr x else none

/-- The decoder: a transaction's instruction, or the reason of its refusal (R81, R82, 60_exceptions.md R301, R307). -/
def decode (t : Transaction) : Except DecodeError Instr :=
  match decodeDesc t.desc with
  | .error e => .error e
  | .ok x =>
    match instrOf x t.wdata with
    | some i => .ok i
    | none => .error .operandMismatch

/-- DEV codes (R74). -/
def Device.code : Device → Nat
  | .syst => 0
  | .wdog => 1
  | .uart => 2
  | .ics => 3

/-- W codes (R73). -/
def Width.code : Width → Nat
  | .byte => 0
  | .word => 1
  | .dword => 2

/-- R78, format ACC: `KIND<<14 | DEV<<11 | DIR<<10 | W<<8 | OFF` with KIND 00. -/
def accDesc (dev : Device) (dir : Nat) (w : Width) (off : BitVec 8) : BitVec 16 :=
  (BitVec.ofNat 16 dev.code <<< 11) ||| (BitVec.ofNat 16 dir <<< 10) ||| (BitVec.ofNat 16 w.code <<< 8)
    ||| off.setWidth 16

/-- R78, format EVT: `KIND<<14 | DEV<<11 | EV<<8 | ARG` with KIND 01; DEV as a number, since MACHINE is 111. -/
def evtDesc (dev ev : Nat) (arg : Byte) : BitVec 16 :=
  (1#16 <<< 14) ||| (BitVec.ofNat 16 dev <<< 11) ||| (BitVec.ofNat 16 ev <<< 8) ||| arg.setWidth 16

/-- The encoder: the transaction of an instruction (R70, R78). -/
def encode : Instr → Transaction
  | .rd32SystCsr => ⟨accDesc .syst 0 .dword 0x0, .none⟩
  | .wr32SystCsr wdata => ⟨accDesc .syst 1 .dword 0x0, .dword wdata⟩
  | .rd32SystRvr => ⟨accDesc .syst 0 .dword 0x4, .none⟩
  | .wr32SystRvr wdata => ⟨accDesc .syst 1 .dword 0x4, .dword wdata⟩
  | .rd32SystCvr => ⟨accDesc .syst 0 .dword 0x8, .none⟩
  | .wr32SystCvr wdata => ⟨accDesc .syst 1 .dword 0x8, .dword wdata⟩
  | .rd32SystCalib => ⟨accDesc .syst 0 .dword 0xC, .none⟩
  | .wr32SystCalib wdata => ⟨accDesc .syst 1 .dword 0xC, .dword wdata⟩
  | .rd8WdogCs1 => ⟨accDesc .wdog 0 .byte 0x0, .none⟩
  | .wr8WdogCs1 wdata => ⟨accDesc .wdog 1 .byte 0x0, .byte wdata⟩
  | .rd8WdogCs2 => ⟨accDesc .wdog 0 .byte 0x1, .none⟩
  | .wr8WdogCs2 wdata => ⟨accDesc .wdog 1 .byte 0x1, .byte wdata⟩
  | .rd8WdogCnth => ⟨accDesc .wdog 0 .byte 0x2, .none⟩
  | .wr8WdogCnth wdata => ⟨accDesc .wdog 1 .byte 0x2, .byte wdata⟩
  | .rd8WdogCntl => ⟨accDesc .wdog 0 .byte 0x3, .none⟩
  | .wr8WdogCntl wdata => ⟨accDesc .wdog 1 .byte 0x3, .byte wdata⟩
  | .rd8WdogTovalh => ⟨accDesc .wdog 0 .byte 0x4, .none⟩
  | .wr8WdogTovalh wdata => ⟨accDesc .wdog 1 .byte 0x4, .byte wdata⟩
  | .rd8WdogTovall => ⟨accDesc .wdog 0 .byte 0x5, .none⟩
  | .wr8WdogTovall wdata => ⟨accDesc .wdog 1 .byte 0x5, .byte wdata⟩
  | .rd8WdogWinh => ⟨accDesc .wdog 0 .byte 0x6, .none⟩
  | .wr8WdogWinh wdata => ⟨accDesc .wdog 1 .byte 0x6, .byte wdata⟩
  | .rd8WdogWinl => ⟨accDesc .wdog 0 .byte 0x7, .none⟩
  | .wr8WdogWinl wdata => ⟨accDesc .wdog 1 .byte 0x7, .byte wdata⟩
  | .rd8UartBdh => ⟨accDesc .uart 0 .byte 0x0, .none⟩
  | .wr8UartBdh wdata => ⟨accDesc .uart 1 .byte 0x0, .byte wdata⟩
  | .rd8UartBdl => ⟨accDesc .uart 0 .byte 0x1, .none⟩
  | .wr8UartBdl wdata => ⟨accDesc .uart 1 .byte 0x1, .byte wdata⟩
  | .rd8UartC1 => ⟨accDesc .uart 0 .byte 0x2, .none⟩
  | .wr8UartC1 wdata => ⟨accDesc .uart 1 .byte 0x2, .byte wdata⟩
  | .rd8UartC2 => ⟨accDesc .uart 0 .byte 0x3, .none⟩
  | .wr8UartC2 wdata => ⟨accDesc .uart 1 .byte 0x3, .byte wdata⟩
  | .rd8UartS1 => ⟨accDesc .uart 0 .byte 0x4, .none⟩
  | .wr8UartS1 wdata => ⟨accDesc .uart 1 .byte 0x4, .byte wdata⟩
  | .rd8UartS2 => ⟨accDesc .uart 0 .byte 0x5, .none⟩
  | .wr8UartS2 wdata => ⟨accDesc .uart 1 .byte 0x5, .byte wdata⟩
  | .rd8UartC3 => ⟨accDesc .uart 0 .byte 0x6, .none⟩
  | .wr8UartC3 wdata => ⟨accDesc .uart 1 .byte 0x6, .byte wdata⟩
  | .rd8UartD => ⟨accDesc .uart 0 .byte 0x7, .none⟩
  | .wr8UartD wdata => ⟨accDesc .uart 1 .byte 0x7, .byte wdata⟩
  | .rd8IcsC1 => ⟨accDesc .ics 0 .byte 0x0, .none⟩
  | .wr8IcsC1 wdata => ⟨accDesc .ics 1 .byte 0x0, .byte wdata⟩
  | .rd8IcsC2 => ⟨accDesc .ics 0 .byte 0x1, .none⟩
  | .wr8IcsC2 wdata => ⟨accDesc .ics 1 .byte 0x1, .byte wdata⟩
  | .rd8IcsC3 => ⟨accDesc .ics 0 .byte 0x2, .none⟩
  | .wr8IcsC3 wdata => ⟨accDesc .ics 1 .byte 0x2, .byte wdata⟩
  | .rd8IcsC4 => ⟨accDesc .ics 0 .byte 0x3, .none⟩
  | .wr8IcsC4 wdata => ⟨accDesc .ics 1 .byte 0x3, .byte wdata⟩
  | .rd8IcsS => ⟨accDesc .ics 0 .byte 0x4, .none⟩
  | .wr8IcsS wdata => ⟨accDesc .ics 1 .byte 0x4, .byte wdata⟩
  | .rd16Wdog off => ⟨accDesc .wdog 0 .word off, .none⟩
  | .wr16Wdog off wdata => ⟨accDesc .wdog 1 .word off, .word wdata⟩
  | .rd32Wdog off => ⟨accDesc .wdog 0 .dword off, .none⟩
  | .wr32Wdog off wdata => ⟨accDesc .wdog 1 .dword off, .dword wdata⟩
  | .rd16Uart off => ⟨accDesc .uart 0 .word off, .none⟩
  | .wr16Uart off wdata => ⟨accDesc .uart 1 .word off, .word wdata⟩
  | .rd32Uart off => ⟨accDesc .uart 0 .dword off, .none⟩
  | .wr32Uart off wdata => ⟨accDesc .uart 1 .dword off, .dword wdata⟩
  | .rd16Ics off => ⟨accDesc .ics 0 .word off, .none⟩
  | .wr16Ics off wdata => ⟨accDesc .ics 1 .word off, .word wdata⟩
  | .rd32Ics off => ⟨accDesc .ics 0 .dword off, .none⟩
  | .wr32Ics off wdata => ⟨accDesc .ics 1 .dword off, .dword wdata⟩
  | .tickSyst => ⟨evtDesc 0 0 0, .none⟩
  | .tickWdog => ⟨evtDesc 1 0 0, .none⟩
  | .resetSyst => ⟨evtDesc 0 1 0, .none⟩
  | .resetWdog => ⟨evtDesc 1 1 0, .none⟩
  | .resetUart => ⟨evtDesc 2 1 0, .none⟩
  | .resetIcs => ⟨evtDesc 3 1 0, .none⟩
  | .machineReset => ⟨evtDesc 7 1 0, .none⟩
  | .rxpush byte => ⟨evtDesc 2 2 byte, .none⟩

/-- The "match" value of the instruction's row in R78's table. -/
def tableMatch : Instr → BitVec 16
  | .rd32SystCsr => 0x0200
  | .wr32SystCsr _ => 0x0600
  | .rd32SystRvr => 0x0204
  | .wr32SystRvr _ => 0x0604
  | .rd32SystCvr => 0x0208
  | .wr32SystCvr _ => 0x0608
  | .rd32SystCalib => 0x020C
  | .wr32SystCalib _ => 0x060C
  | .rd8WdogCs1 => 0x0800
  | .wr8WdogCs1 _ => 0x0C00
  | .rd8WdogCs2 => 0x0801
  | .wr8WdogCs2 _ => 0x0C01
  | .rd8WdogCnth => 0x0802
  | .wr8WdogCnth _ => 0x0C02
  | .rd8WdogCntl => 0x0803
  | .wr8WdogCntl _ => 0x0C03
  | .rd8WdogTovalh => 0x0804
  | .wr8WdogTovalh _ => 0x0C04
  | .rd8WdogTovall => 0x0805
  | .wr8WdogTovall _ => 0x0C05
  | .rd8WdogWinh => 0x0806
  | .wr8WdogWinh _ => 0x0C06
  | .rd8WdogWinl => 0x0807
  | .wr8WdogWinl _ => 0x0C07
  | .rd8UartBdh => 0x1000
  | .wr8UartBdh _ => 0x1400
  | .rd8UartBdl => 0x1001
  | .wr8UartBdl _ => 0x1401
  | .rd8UartC1 => 0x1002
  | .wr8UartC1 _ => 0x1402
  | .rd8UartC2 => 0x1003
  | .wr8UartC2 _ => 0x1403
  | .rd8UartS1 => 0x1004
  | .wr8UartS1 _ => 0x1404
  | .rd8UartS2 => 0x1005
  | .wr8UartS2 _ => 0x1405
  | .rd8UartC3 => 0x1006
  | .wr8UartC3 _ => 0x1406
  | .rd8UartD => 0x1007
  | .wr8UartD _ => 0x1407
  | .rd8IcsC1 => 0x1800
  | .wr8IcsC1 _ => 0x1C00
  | .rd8IcsC2 => 0x1801
  | .wr8IcsC2 _ => 0x1C01
  | .rd8IcsC3 => 0x1802
  | .wr8IcsC3 _ => 0x1C02
  | .rd8IcsC4 => 0x1803
  | .wr8IcsC4 _ => 0x1C03
  | .rd8IcsS => 0x1804
  | .wr8IcsS _ => 0x1C04
  | .rd16Wdog _ => 0x0900
  | .wr16Wdog _ _ => 0x0D00
  | .rd32Wdog _ => 0x0A00
  | .wr32Wdog _ _ => 0x0E00
  | .rd16Uart _ => 0x1100
  | .wr16Uart _ _ => 0x1500
  | .rd32Uart _ => 0x1200
  | .wr32Uart _ _ => 0x1600
  | .rd16Ics _ => 0x1900
  | .wr16Ics _ _ => 0x1D00
  | .rd32Ics _ => 0x1A00
  | .wr32Ics _ _ => 0x1E00
  | .tickSyst => 0x4000
  | .tickWdog => 0x4800
  | .resetSyst => 0x4100
  | .resetWdog => 0x4900
  | .resetUart => 0x5100
  | .resetIcs => 0x5900
  | .machineReset => 0x7900
  | .rxpush _ => 0x5200

/-- The "mask" value of the instruction's row in R78's table. -/
def tableMask : Instr → BitVec 16
  | .rd32SystCsr => 0xFFFF
  | .wr32SystCsr _ => 0xFFFF
  | .rd32SystRvr => 0xFFFF
  | .wr32SystRvr _ => 0xFFFF
  | .rd32SystCvr => 0xFFFF
  | .wr32SystCvr _ => 0xFFFF
  | .rd32SystCalib => 0xFFFF
  | .wr32SystCalib _ => 0xFFFF
  | .rd8WdogCs1 => 0xFFFF
  | .wr8WdogCs1 _ => 0xFFFF
  | .rd8WdogCs2 => 0xFFFF
  | .wr8WdogCs2 _ => 0xFFFF
  | .rd8WdogCnth => 0xFFFF
  | .wr8WdogCnth _ => 0xFFFF
  | .rd8WdogCntl => 0xFFFF
  | .wr8WdogCntl _ => 0xFFFF
  | .rd8WdogTovalh => 0xFFFF
  | .wr8WdogTovalh _ => 0xFFFF
  | .rd8WdogTovall => 0xFFFF
  | .wr8WdogTovall _ => 0xFFFF
  | .rd8WdogWinh => 0xFFFF
  | .wr8WdogWinh _ => 0xFFFF
  | .rd8WdogWinl => 0xFFFF
  | .wr8WdogWinl _ => 0xFFFF
  | .rd8UartBdh => 0xFFFF
  | .wr8UartBdh _ => 0xFFFF
  | .rd8UartBdl => 0xFFFF
  | .wr8UartBdl _ => 0xFFFF
  | .rd8UartC1 => 0xFFFF
  | .wr8UartC1 _ => 0xFFFF
  | .rd8UartC2 => 0xFFFF
  | .wr8UartC2 _ => 0xFFFF
  | .rd8UartS1 => 0xFFFF
  | .wr8UartS1 _ => 0xFFFF
  | .rd8UartS2 => 0xFFFF
  | .wr8UartS2 _ => 0xFFFF
  | .rd8UartC3 => 0xFFFF
  | .wr8UartC3 _ => 0xFFFF
  | .rd8UartD => 0xFFFF
  | .wr8UartD _ => 0xFFFF
  | .rd8IcsC1 => 0xFFFF
  | .wr8IcsC1 _ => 0xFFFF
  | .rd8IcsC2 => 0xFFFF
  | .wr8IcsC2 _ => 0xFFFF
  | .rd8IcsC3 => 0xFFFF
  | .wr8IcsC3 _ => 0xFFFF
  | .rd8IcsC4 => 0xFFFF
  | .wr8IcsC4 _ => 0xFFFF
  | .rd8IcsS => 0xFFFF
  | .wr8IcsS _ => 0xFFFF
  | .rd16Wdog _ => 0xFF00
  | .wr16Wdog _ _ => 0xFF00
  | .rd32Wdog _ => 0xFF00
  | .wr32Wdog _ _ => 0xFF00
  | .rd16Uart _ => 0xFF00
  | .wr16Uart _ _ => 0xFF00
  | .rd32Uart _ => 0xFF00
  | .wr32Uart _ _ => 0xFF00
  | .rd16Ics _ => 0xFF00
  | .wr16Ics _ _ => 0xFF00
  | .rd32Ics _ => 0xFF00
  | .wr32Ics _ _ => 0xFF00
  | .tickSyst => 0xFFFF
  | .tickWdog => 0xFFFF
  | .resetSyst => 0xFFFF
  | .resetWdog => 0xFFFF
  | .resetUart => 0xFFFF
  | .resetIcs => 0xFFFF
  | .machineReset => 0xFFFF
  | .rxpush _ => 0xFF00

/-- The operand a descriptor fixes the shape of, with the bits of `x` (R70): of 8n bits for a write access, none else (log 14). -/
def operandFor (d : BitVec 16) (x : Nat) : Data :=
  match descField d 14 2, descField d 10 1, descField d 8 2 with
  | 0, 1, 0 => .byte (BitVec.ofNat 8 x)
  | 0, 1, 1 => .word (BitVec.ofNat 16 x)
  | 0, 1, 2 => .dword (BitVec.ofNat 32 x)
  | _, _, _ => .none

/-- The transaction whose bits are `w`, of which `nbits` are given and the rest are 0: bits 15..0 are the descriptor, the
bits above it the operand (log 14). -/
def tableTransaction (nbits w : Nat) : Transaction :=
  let bits := w % 2 ^ nbits
  let d := BitVec.ofNat 16 bits
  ⟨d, operandFor d (bits >>> 16)⟩

/-- The instruction the decoder reads from an instruction whose bits are `w`; none where it refuses. -/
def decodeTableWord (nbits w : Nat) : Option Instr :=
  match decode (tableTransaction nbits w) with
  | .ok i => some i
  | .error _ => none

end Sys2Proof
end

