-- ==== Sys2Proof/Machine/State.lean ====
section
/-! DEFINITION. The state record of 10_state.md R21 as plain data, with the parameters (00_scope.md R4) and the model's own
fields (logs 1 to 4), the reasons a step stops, and the state after reset. -/

namespace Sys2Proof.Machine

/-- Why the machine stops (60_exceptions.md R305). -/
inductive Fault where
  /-- `Unmodelled(LimitZero)`: recorded by a TICK of a Running timer whose limit is 0 (41_timer_core.md R134); every later
  step stops with it. Safe: the machine stops where the source gives no meaning. -/
  | unmodelledLimitZero
deriving DecidableEq, Repr

/-- Why a transaction has no step (60_exceptions.md R301). -/
inductive Refusal where
  /-- Raised by no arm of `exec` once every instruction has its meaning. Safe. -/
  | notModelled (mnemonic : String)
  /-- Raised by the decoder: a reserved or unlisted descriptor (R301 `Illegal`). Safe. -/
  | illegal
  /-- Raised by the decoder: a SYST access of another width or alignment (R301 `BadWidth`). Safe. -/
  | badWidth
  /-- Raised by the decoder, and by a wide access of an ill-formed instruction: a byte of the access lies at or beyond the
  device's size (R301 `OutOfRange`). Safe. -/
  | outOfRange
  /-- Raised by the decoder: descriptor and operand do not belong together, so the pair is no transaction (30_encoding.md
  R70; log 13). Safe. -/
  | operandMismatch
deriving DecidableEq, Repr

/-- Warnings (decision D24). -/
inductive LogKind where
  | txDisabled
  | rxDisabled
  | rxEmpty
  | taggedWrite
deriving DecidableEq, Repr

/-- Events of the history (10_state.md R45). -/
inductive Event where
  | irqPulse (t : TimerId)
  | resetRequest (t : TimerId)
  | txByte (b : Byte)
  /-- `IrqLevel(UART, v)`. -/
  | irqLevel (v : Bool)
  | log (k : LogKind)
deriving DecidableEq, Repr

/-- A countdown timer's counter (10_state.md R43). -/
structure Timer where
  count : Nat
  limit : Nat
deriving DecidableEq, Repr

/-- Stored fields of SYST (R23 to R25; CALIB has none, R26). -/
structure SystRegs where
  csr : DWord
  rvr : DWord
  cvr : DWord
deriving DecidableEq, Repr

/-- Stored fields of WDOG (R27 to R29). -/
structure WdogRegs where
  cs1 : Byte
  cs2 : Byte
  cnth : Byte
  cntl : Byte
  tovalh : Byte
  tovall : Byte
  winh : Byte
  winl : Byte
deriving DecidableEq, Repr

/-- Stored fields of UART (R30 to R37; S1 has none, R34). -/
structure UartRegs where
  bdh : Byte
  bdl : Byte
  c1 : Byte
  c2 : Byte
  s2 : Byte
  c3 : Byte
  d : Byte
deriving DecidableEq, Repr

/-- Stored fields of ICS (R38 to R41; S has none, R42). -/
structure IcsRegs where
  c1 : Byte
  c2 : Byte
  c3 : Byte
  c4 : Byte
deriving DecidableEq, Repr

/-- The state (10_state.md R21). `cfg` holds the parameters (log 3); `rdata`, `draws` and `pending` are the model's own. -/
structure State where
  cfg : Params
  syst : SystRegs
  wdog : WdogRegs
  uart : UartRegs
  ics : IcsRegs
  tS : Timer
  tW : Timer
  txq : List Byte
  uartIrq : Bool
  rxbuf : List Byte
  resetPending : Bool
  hist : List Event
  fault : Option Fault
  /-- The result of the last read (30_encoding.md R70; log 2). -/
  rdata : Data
  /-- How many draws the free choice has served (log 4). -/
  draws : Nat
  /-- The transactions the host agents offer, oldest first (20_memory.md R62; log 1). -/
  pending : List Transaction
deriving DecidableEq, Repr

/-- The reset contents of each register file (40_regfile.md R94, 10_state.md R47). -/
def SystRegs.reset (cfg : Params) : SystRegs where
  csr := storedReset32 cfg .csr
  rvr := storedReset32 cfg .rvr
  cvr := storedReset32 cfg .cvr

def WdogRegs.reset (cfg : Params) : WdogRegs where
  cs1 := storedReset8 cfg .wdogCs1
  cs2 := storedReset8 cfg .wdogCs2
  cnth := storedReset8 cfg .wdogCnth
  cntl := storedReset8 cfg .wdogCntl
  tovalh := storedReset8 cfg .wdogTovalh
  tovall := storedReset8 cfg .wdogTovall
  winh := storedReset8 cfg .wdogWinh
  winl := storedReset8 cfg .wdogWinl

def UartRegs.reset (cfg : Params) : UartRegs where
  bdh := storedReset8 cfg .uartBdh
  bdl := storedReset8 cfg .uartBdl
  c1 := storedReset8 cfg .uartC1
  c2 := storedReset8 cfg .uartC2
  s2 := storedReset8 cfg .uartS2
  c3 := storedReset8 cfg .uartC3
  d := storedReset8 cfg .uartD

def IcsRegs.reset (cfg : Params) : IcsRegs where
  c1 := storedReset8 cfg .icsC1
  c2 := storedReset8 cfg .icsC2
  c3 := storedReset8 cfg .icsC3
  c4 := storedReset8 cfg .icsC4

/-- The state right after construction with the parameters `cfg` (10_state.md R47, R48; 70_reset_and_hazards.md R330(a)). -/
def State.construct (cfg : Params) : State where
  cfg := cfg
  syst := .reset cfg
  wdog := .reset cfg
  uart := .reset cfg
  ics := .reset cfg
  tS := ⟨0, cfg.systLimit0⟩
  tW := ⟨0, cfg.wdogLimit0⟩
  txq := []
  uartIrq := false
  rxbuf := []
  resetPending := false
  hist := []
  fault := none
  rdata := .none
  draws := 0
  pending := []

/-- The machine right after reset, with the default parameters. -/
def State.reset : State :=
  .construct defaultParams

end Sys2Proof.Machine
end

