-- ==== Sys2Proof/Machine/Flags.lean ====
section
/-! DEFINITION. Named fields of the stored registers, and every value the block computes from its state: the UART status
flags, the interrupt-line formula, the live counter values and the ICS mode. -/

namespace Sys2Proof.Machine

/-- `EN(t)`: SYST CSR.ENABLE or WDOG CS1.EN (41_timer_core.md, table). -/
def enabled : TimerId → State → Bool
  | .syst, s => s.syst.csr.getLsbD 0
  | .wdog, s => s.wdog.cs1.getLsbD 7

/-- `IE(t)`: SYST CSR.TICKINT or WDOG CS1.INT. -/
def irqEnabled : TimerId → State → Bool
  | .syst, s => s.syst.csr.getLsbD 1
  | .wdog, s => s.wdog.cs1.getLsbD 6

/-- The timer's counter. -/
def timer : TimerId → State → Timer
  | .syst, s => s.tS
  | .wdog, s => s.tW

/-- SYST RVR.RELOAD. -/
def reloadField (s : State) : BitVec 24 := s.syst.rvr.setWidth 24

/-- SYST CVR.CURRENT. -/
def currentField (s : State) : BitVec 24 := s.syst.cvr.setWidth 24

/-- TOVALH:TOVALL (10_state.md R29). -/
def timeoutField (s : State) : BitVec 16 := s.wdog.tovalh ++ s.wdog.tovall

/-- UART C2's four enables (44_uart.md R220). -/
def txEnabled (s : State) : Bool := s.uart.c2.getLsbD 3
def txIrqEnabled (s : State) : Bool := s.uart.c2.getLsbD 7
def rxEnabled (s : State) : Bool := s.uart.c2.getLsbD 2
def rxIrqEnabled (s : State) : Bool := s.uart.c2.getLsbD 5

/-- TDRE (R223). -/
def tdre (s : State) : Bool := decide (s.txq.length ≤ s.cfg.txwm)

/-- TC (R224). -/
def tc (s : State) : Bool := s.txq.isEmpty

/-- RDRF (R225). -/
def rdrf (s : State) : Bool := decide (s.cfg.rxwm ≤ s.rxbuf.length)

/-- `irq_formula(S)` (R226). -/
def irqFormula (s : State) : Bool :=
  (txEnabled s && txIrqEnabled s) || (rxEnabled s && rxIrqEnabled s && rdrf s)

/-- `trunc_24(live(tS))`, live(tS) = limit - count (41_timer_core.md R146); a free value where the count exceeds the limit,
of which the rule states no result (log 5). -/
def liveSyst (s : State) : BitVec 24 :=
  if s.tS.count ≤ s.tS.limit then BitVec.ofNat 24 (s.tS.limit - s.tS.count)
  else Config.liveUnderflow s.tS.limit s.tS.count

/-- `trunc_16(live(tW))`, live(tW) = count (R146). -/
def liveWdog (s : State) : BitVec 16 :=
  BitVec.ofNat 16 s.tW.count

/-- The seven ICS modes (45_ics.md R271). -/
inductive IcsMode where
  | fei
  | fee
  | fbi
  | fbilp
  | fbe
  | fbelp
  | stop
deriving DecidableEq, Repr

/-- R271's ordered guards over (clockSourceSelector, internalReferenceSelected, lowPower). -/
def icsModeOf (sel : BitVec 2) (ir lp : Bool) : IcsMode :=
  if sel = 0 ∧ ir then .fei
  else if sel = 0 ∧ ¬ ir then .fee
  else if sel = 1 ∧ ¬ ir ∧ ¬ lp then .fbi
  else if sel = 2 ∧ ¬ ir ∧ ¬ lp then .fbe
  else if sel = 2 ∧ ¬ ir ∧ lp then .fbelp
  else if sel = 1 ∧ ir ∧ lp then .fbilp
  else .stop

/-- `ics_mode(S)`: the derived output, from the live C1 and C2 fields (R271, R273). -/
def icsMode (s : State) : IcsMode :=
  icsModeOf (s.ics.c1.extractLsb' 6 2) (s.ics.c1.getLsbD 2) (s.ics.c2.getLsbD 4)

end Sys2Proof.Machine
end

