-- ==== Sys2Proof/Machine/Ops.lean ====
section
/-! DEFINITION. The named operations over the state: one home for each register's storage, events, the read result, taking
the fault, the draw, fetching a transaction, and the observers of the block's outputs. -/

namespace Sys2Proof.Machine

/-- The stored bits of a SYST register; CALIB stores none (10_state.md R26). -/
def get32 : Reg32 → State → DWord
  | .csr, s => s.syst.csr
  | .rvr, s => s.syst.rvr
  | .cvr, s => s.syst.cvr
  | .calib, _ => 0

/-- Store a SYST register's bits. -/
def put32 : Reg32 → DWord → State → State
  | .csr, v, s => { s with syst := { s.syst with csr := v } }
  | .rvr, v, s => { s with syst := { s.syst with rvr := v } }
  | .cvr, v, s => { s with syst := { s.syst with cvr := v } }
  | .calib, _, s => s

/-- The stored bits of a byte register; UART S1 and ICS S store none (R34, R42). -/
def get8 : Reg8 → State → Byte
  | .wdogCs1, s => s.wdog.cs1
  | .wdogCs2, s => s.wdog.cs2
  | .wdogCnth, s => s.wdog.cnth
  | .wdogCntl, s => s.wdog.cntl
  | .wdogTovalh, s => s.wdog.tovalh
  | .wdogTovall, s => s.wdog.tovall
  | .wdogWinh, s => s.wdog.winh
  | .wdogWinl, s => s.wdog.winl
  | .uartBdh, s => s.uart.bdh
  | .uartBdl, s => s.uart.bdl
  | .uartC1, s => s.uart.c1
  | .uartC2, s => s.uart.c2
  | .uartS1, _ => 0
  | .uartS2, s => s.uart.s2
  | .uartC3, s => s.uart.c3
  | .uartD, s => s.uart.d
  | .icsC1, s => s.ics.c1
  | .icsC2, s => s.ics.c2
  | .icsC3, s => s.ics.c3
  | .icsC4, s => s.ics.c4
  | .icsS, _ => 0

/-- Store a byte register's bits. -/
def put8 : Reg8 → Byte → State → State
  | .wdogCs1, v, s => { s with wdog := { s.wdog with cs1 := v } }
  | .wdogCs2, v, s => { s with wdog := { s.wdog with cs2 := v } }
  | .wdogCnth, v, s => { s with wdog := { s.wdog with cnth := v } }
  | .wdogCntl, v, s => { s with wdog := { s.wdog with cntl := v } }
  | .wdogTovalh, v, s => { s with wdog := { s.wdog with tovalh := v } }
  | .wdogTovall, v, s => { s with wdog := { s.wdog with tovall := v } }
  | .wdogWinh, v, s => { s with wdog := { s.wdog with winh := v } }
  | .wdogWinl, v, s => { s with wdog := { s.wdog with winl := v } }
  | .uartBdh, v, s => { s with uart := { s.uart with bdh := v } }
  | .uartBdl, v, s => { s with uart := { s.uart with bdl := v } }
  | .uartC1, v, s => { s with uart := { s.uart with c1 := v } }
  | .uartC2, v, s => { s with uart := { s.uart with c2 := v } }
  | .uartS1, _, s => s
  | .uartS2, v, s => { s with uart := { s.uart with s2 := v } }
  | .uartC3, v, s => { s with uart := { s.uart with c3 := v } }
  | .uartD, v, s => { s with uart := { s.uart with d := v } }
  | .icsC1, v, s => { s with ics := { s.ics with c1 := v } }
  | .icsC2, v, s => { s with ics := { s.ics with c2 := v } }
  | .icsC3, v, s => { s with ics := { s.ics with c3 := v } }
  | .icsC4, v, s => { s with ics := { s.ics with c4 := v } }
  | .icsS, _, s => s

/-- Replace a timer's counter. -/
def setTimer : TimerId → Timer → State → State
  | .syst, t, s => { s with tS := t }
  | .wdog, t, s => { s with tW := t }

/-- `emit E` (00_scope.md R7): append events to the history, in order. -/
def emit (es : List Event) (s : State) : State :=
  { s with hist := s.hist ++ es }

/-- A read returns its result (30_encoding.md R70; log 2). -/
def answer (d : Data) (s : State) : State :=
  { s with rdata := d }

/-- Taking the block's one exception (60_exceptions.md R305): the fault is recorded and nothing else changes. There is no
handler, no saved register and no mode (R314), and no transaction and no reset returns from it (R305, R315). -/
def takeFault (r : Fault) (s : State) : State :=
  { s with fault := some r }

/-- A draw from {stored, live} under `P_CURRENT_READ` (42_systick.md R155, 43_watchdog.md R185); under `Either` the free
choice decides and the next draw gets a fresh one (log 4). -/
def drawCurrent {w : Nat} (stored live : BitVec w) (s : State) : BitVec w × State :=
  match s.cfg.currentRead with
  | .stored => (stored, s)
  | .live => (live, s)
  | .either => (if Config.freeChoice s.draws then stored else live, { s with draws := s.draws + 1 })

/-- The next transaction of the total order of all agents' steps, and the state without it (20_memory.md R62; log 1). -/
def takeTransaction (s : State) : Option (Transaction × State) :=
  match s.pending with
  | [] => none
  | t :: rest => some (t, { s with pending := rest })

/-- Offer a transaction as the next one. -/
def offerNext (t : Transaction) (s : State) : State :=
  { s with pending := t :: s.pending }

/-- The refusal a decoding error becomes (60_exceptions.md R301). -/
def Refusal.ofDecode : DecodeError → Refusal
  | .illegal => .illegal
  | .badWidth => .badWidth
  | .outOfRange => .outOfRange
  | .operandMismatch => .operandMismatch

/-- Cause codes of the refusals (60_exceptions.md R306); the model's own refusals have none. -/
def Refusal.code : Refusal → Option Nat
  | .outOfRange => some 1
  | .badWidth => some 2
  | .illegal => some 3
  | _ => none

/-- Cause code of the fault (R306). -/
def Fault.code : Fault → Nat
  | .unmodelledLimitZero => 16

/-- A device's base in the host's address space (20_memory.md R53); its width of 32 bits is the model's choice (log 26). -/
def deviceBase (cfg : Params) : Device → DWord
  | .syst => cfg.baseSyst
  | .wdog => cfg.baseWdog
  | .uart => cfg.baseUart
  | .ics => cfg.baseIcs

/-- The host address of a byte offset, "relative to the peripheral's base" (R50, R53). The spec gives a host address no width and
does not say what base plus offset is past it: 32 bits, and the sum modulo 2^32, are the model's choice (log 26). -/
def busAddress (cfg : Params) (dev : Device) (off : Nat) : DWord :=
  deviceBase cfg dev + BitVec.ofNat 32 off

/-- The interrupt-controller input an event reaches (60_exceptions.md R310, R311); other events reach none. -/
def irqInput (cfg : Params) : Event → Option Nat
  | .irqPulse .syst => some cfg.irqSyst
  | .irqPulse .wdog => some cfg.irqWdog
  | .irqLevel _ => some cfg.irqUart
  | .resetRequest _ => none
  | .txByte _ => none
  | .log _ => none

end Sys2Proof.Machine
end

