-- ==== Sys2Proof/Machine/TimerCore.lean ====
section
/-! DEFINITION. The countdown-reset timer core of 41_timer_core.md: expiry (R135), the tick (R134) and the two TICK
transactions (R140, R141). -/

namespace Sys2Proof.Machine

/-- `Expire(t)` (R135): the conditional pulse, the unconditional reset request, the periodic restart. -/
def expire (t : TimerId) (s : State) : State :=
  let pulsed := if irqEnabled t s then emit [.irqPulse t] s else s
  let requested := { emit [.resetRequest t] pulsed with resetPending := true }
  setTimer t { timer t requested with count := 0 } requested

/-- `Tick(t)` (R134): Disabled is checked first, then a zero limit faults before any update. -/
def tick (t : TimerId) (s : State) : State :=
  if enabled t s = false then s
  else if (timer t s).limit = 0 then takeFault .unmodelledLimitZero s
  else
    let counted := setTimer t { timer t s with count := (timer t s).count + 1 } s
    if (timer t counted).limit ≤ (timer t counted).count then expire t counted else counted

/-- `TICK.SYST` (R140). -/
def execTickSyst (s : State) : Host.Outcome State Fault Refusal :=
  .next (tick .syst s)

/-- `TICK.WDOG` (R141). -/
def execTickWdog (s : State) : Host.Outcome State Fault Refusal :=
  .next (tick .wdog s)

end Sys2Proof.Machine
end

