-- ==== Sys2Proof/Machine/UartEngine.lean ====
section
/-! DEFINITION. The UART transmit/receive engine of 44_uart.md: line recomputation (R226), flush (R237), WriteData (R236) and
ReadData (R239). -/

namespace Sys2Proof.Machine

/-- `Recompute()` (R226): the line follows the formula, and a change is recorded. -/
def recompute (s : State) : State :=
  if irqFormula s = s.uartIrq then s
  else emit [.irqLevel (irqFormula s)] { s with uartIrq := irqFormula s }

/-- `Flush()` (R237): at or above the watermark the whole queue goes out, head first. -/
def flush (s : State) : State :=
  if s.cfg.txwm ≤ s.txq.length then
    { emit (s.txq.map .txByte) s with txq := [] }
  else s

/-- `WriteData(b)` (R236). -/
def writeData (b : Byte) (s : State) : State :=
  if txEnabled s = false then emit [.log .txDisabled] s
  else recompute (flush { s with txq := s.txq ++ [b] })

/-- `ReadData()` (R239): the byte returned and the state after it. -/
def readData (s : State) : Byte × State :=
  if rxEnabled s = false then (0, emit [.log .rxDisabled] s)
  else
    match s.rxbuf with
    | [] => (0, recompute (emit [.log .rxEmpty] s))
    | b :: rest => (b, recompute { s with rxbuf := rest })

end Sys2Proof.Machine
end

