-- ==== Sys2Proof/Machine/RegFile.lean ====
section
/-! DEFINITION. The bit-field register file of 40_regfile.md: register write (R92), register read (R93), register-file reset
(R94), and the width adapter's byte sequences (R101). -/

namespace Sys2Proof.Machine

/-- A field's bits of a register value, right-aligned. -/
def fieldBits {w : Nat} (f : Field) (v : BitVec w) : DWord :=
  ((v &&& fieldMask w f) >>> f.lo).setWidth 32

/-- A right-aligned value placed at a field's bits, masked to the field's width. -/
def placeField {w : Nat} (f : Field) (x : DWord) : BitVec w :=
  ((x.setWidth w) <<< f.lo) &&& fieldMask w f

/-- The write side effect of a field, called with its old and new bits after the new ones are stored (R92, R99). -/
def runEffect : Effect → DWord → DWord → State → State
  | .enable, _, _, s => s
  | .reload, _, _, s =>
    if s.cfg.reloadSetsLimit then setTimer .syst { s.tS with limit := (reloadField s).toNat } s else s
  | .timeout, _, _, s =>
    if s.cfg.reloadSetsLimit then setTimer .wdog { s.tW with limit := (timeoutField s).toNat } s else s
  | .writeData, _, new, s => writeData (new.setWidth 8) s

/-- One field of a register write (R92): `get` and `put` are the register's storage. -/
def writeField {w : Nat} (get : State → BitVec w) (put : BitVec w → State → State) (v : BitVec w) (f : Field)
    (s : State) : State :=
  match f.mode s.cfg with
  | .ro => s
  | .tagged => emit [.log .taggedWrite] s
  | .rw | .wo =>
    let stored := put ((get s &&& ~~~fieldMask w f) ||| (v &&& fieldMask w f)) s
    match f.effect with
    | none => stored
    | some e => runEffect e (fieldBits f (get s)) (fieldBits f v) stored

/-- The fields of a register write, in table order, which is ascending bit order (R92). -/
def writeFields {w : Nat} (get : State → BitVec w) (put : BitVec w → State → State) (v : BitVec w) :
    List Field → State → State
  | [], s => s
  | f :: fs, s => writeFields get put v fs (writeField get put v f s)

/-- The post-write hook (R107): UART C2 recomputes the line once, after all its fields. -/
def postWrite : Reg8 → State → State
  | .uartC2, s => recompute s
  | _, s => s

/-- `RegWrite(SYST, off, v)` (R92). -/
def regWrite32 (r : Reg32) (v : DWord) (s : State) : State :=
  writeFields (get32 r) (put32 r) v (fields32 r) s

/-- `RegWrite(dev, off, v)` at a byte-native device (R92). -/
def regWrite8 (r : Reg8) (v : Byte) (s : State) : State :=
  postWrite r (writeFields (get8 r) (put8 r) v (fields8 r) s)

/-- A field's read provider (R93): the value, right-aligned, and the state after it. -/
def provide : Provider → State → DWord × State
  | .zero, s => (0, s)
  | .tdre, s => ((BitVec.ofBool (tdre s)).setWidth 32, s)
  | .tc, s => ((BitVec.ofBool (tc s)).setWidth 32, s)
  | .rdrf, s => ((BitVec.ofBool (rdrf s)).setWidth 32, s)
  | .calib, s => (s.cfg.systCalib, s)
  | .icsStatus, s => (s.cfg.rvIcsS.setWidth 32, s)
  | .current, s => ((drawCurrent (currentField s) (liveSyst s) s).1.setWidth 32,
      (drawCurrent (currentField s) (liveSyst s) s).2)
  | .counterHigh, s => ((drawCurrent s.wdog.cnth ((liveWdog s).extractLsb' 8 8) s).1.setWidth 32,
      (drawCurrent s.wdog.cnth ((liveWdog s).extractLsb' 8 8) s).2)
  | .counterLow, s => ((drawCurrent s.wdog.cntl ((liveWdog s).extractLsb' 0 8) s).1.setWidth 32,
      (drawCurrent s.wdog.cntl ((liveWdog s).extractLsb' 0 8) s).2)
  | .readData, s => ((readData s).1.setWidth 32, (readData s).2)

/-- One field of a register read (R93): its bits in place and the state after it. -/
def readField {w : Nat} (get : State → BitVec w) (f : Field) (s : State) : BitVec w × State :=
  match f.mode s.cfg with
  | .wo | .tagged => (0, s)
  | .ro | .rw =>
    match f.provider with
    | some p => (placeField f (provide p s).1, (provide p s).2)
    | none => (get s &&& fieldMask w f, s)

/-- The fields of a register read, in ascending bit order (R93); reserved bits stay 0. -/
def readFields {w : Nat} (get : State → BitVec w) : List Field → State → BitVec w × State
  | [], s => (0, s)
  | f :: fs, s =>
    ((readField get f s).1 ||| (readFields get fs (readField get f s).2).1,
      (readFields get fs (readField get f s).2).2)

/-- `RegRead(SYST, off)` (R93). -/
def regRead32 (r : Reg32) (s : State) : DWord × State :=
  readFields (get32 r) (fields32 r) s

/-- `RegRead(dev, off)` at a byte-native device (R93). -/
def regRead8 (r : Reg8) (s : State) : Byte × State :=
  readFields (get8 r) (fields8 r) s

/-- A read of a SYST register as a transaction. -/
def read32 (r : Reg32) (s : State) : Host.Outcome State Fault Refusal :=
  .next (answer (.dword (regRead32 r s).1) (regRead32 r s).2)

/-- A write of a SYST register as a transaction. -/
def write32 (r : Reg32) (v : DWord) (s : State) : Host.Outcome State Fault Refusal :=
  .next (regWrite32 r v s)

/-- A byte read as a transaction. -/
def read8 (r : Reg8) (s : State) : Host.Outcome State Fault Refusal :=
  .next (answer (.byte (regRead8 r s).1) (regRead8 r s).2)

/-- A byte write as a transaction. -/
def write8 (r : Reg8) (v : Byte) (s : State) : Host.Outcome State Fault Refusal :=
  .next (regWrite8 r v s)

/-- The byte reads of a wide read, in address order, each with its side effects (R101, R103, R104). -/
def readSeq : List Reg8 → State → List Byte × State
  | [], s => ([], s)
  | r :: rs, s => ((regRead8 r s).1 :: (readSeq rs (regRead8 r s).2).1, (readSeq rs (regRead8 r s).2).2)

/-- The byte writes of a wide write, in address order, each with its side effects (R101, R102, R104). -/
def writeSeq : List Reg8 → List Byte → State → State
  | r :: rs, b :: bs, s => writeSeq rs bs (regWrite8 r b s)
  | _, _, s => s

/-- The registers of a device with stored state or computed value, in offset order. -/
def deviceRegs8 : Device → List Reg8
  | .syst => []
  | .wdog => [.wdogCs1, .wdogCs2, .wdogCnth, .wdogCntl, .wdogTovalh, .wdogTovall, .wdogWinh, .wdogWinl]
  | .uart => [.uartBdh, .uartBdl, .uartC1, .uartC2, .uartS1, .uartS2, .uartC3, .uartD]
  | .ics => [.icsC1, .icsC2, .icsC3, .icsC4, .icsS]

/-- `RegFileReset` of a byte-native device (R94): every field with stored state at its reset value, no write effect. -/
def resetRegs8 (s : State) : List Reg8 → State
  | [] => s
  | r :: rs => resetRegs8 (put8 r (storedReset8 s.cfg r) s) rs

/-- `RegFileReset(SYST)` (R94). -/
def resetRegs32 (s : State) : List Reg32 → State
  | [] => s
  | r :: rs => resetRegs32 (put32 r (storedReset32 s.cfg r) s) rs

end Sys2Proof.Machine
end

