-- ==== Sys2Proof/Machine/HostEvents.lean ====
section
/-! DEFINITION. The host events of 46_host_events.md: the four device resets (R290 to R293), the machine reset (R294) and the
arrival of a byte (R295). -/

namespace Sys2Proof.Machine

/-- `ResetSYST()` (R290). -/
def resetSyst (s : State) : State :=
  setTimer .syst ⟨0, s.cfg.systLimit0⟩ (resetRegs32 s [.csr, .rvr, .cvr, .calib])

/-- `ResetWDOG()` (R291). -/
def resetWdog (s : State) : State :=
  setTimer .wdog ⟨0, s.cfg.wdogLimit0⟩ (resetRegs8 s (deviceRegs8 .wdog))

/-- `ResetUART()` (R292): the queue is cleared, the receive buffer kept, the line recomputed. -/
def resetUart (s : State) : State :=
  recompute (resetRegs8 { s with txq := [] } (deviceRegs8 .uart))

/-- `RegFileReset(ICS)` (R293). -/
def resetIcs (s : State) : State :=
  resetRegs8 s (deviceRegs8 .ics)

/-- `MachineReset()` (R294). -/
def machineReset (s : State) : State :=
  { resetIcs (resetUart (resetWdog (resetSyst { s with rxbuf := [] }))) with resetPending := false }

/-- `RxPush(b)` (R295). -/
def rxPush (b : Byte) (s : State) : State :=
  if s.cfg.rxpushRecompute then recompute { s with rxbuf := s.rxbuf ++ [b] } else { s with rxbuf := s.rxbuf ++ [b] }

/-- `RESET.SYST` (R290). -/
def execResetSyst (s : State) : Host.Outcome State Fault Refusal :=
  .next (resetSyst s)

/-- `RESET.WDOG` (R291). -/
def execResetWdog (s : State) : Host.Outcome State Fault Refusal :=
  .next (resetWdog s)

/-- `RESET.UART` (R292). -/
def execResetUart (s : State) : Host.Outcome State Fault Refusal :=
  .next (resetUart s)

/-- `RESET.ICS` (R293). -/
def execResetIcs (s : State) : Host.Outcome State Fault Refusal :=
  .next (resetIcs s)

/-- `MACHINE_RESET` (R294). -/
def execMachineReset (s : State) : Host.Outcome State Fault Refusal :=
  .next (machineReset s)

/-- `RXPUSH` (R295). -/
def execRxpush (byte : Byte) (s : State) : Host.Outcome State Fault Refusal :=
  .next (rxPush byte s)

end Sys2Proof.Machine
end

