-- ==== Sys2Proof/Machine/Ics.lean ====
section
/-! DEFINITION. The ICS byte access transactions (45_ics.md R275 to R284). -/

namespace Sys2Proof.Machine

/-- `RD8.ICS.C1` (R275). -/
def execRd8IcsC1 (s : State) : Host.Outcome State Fault Refusal :=
  read8 .icsC1 s

/-- `WR8.ICS.C1` (R276). -/
def execWr8IcsC1 (wdata : Byte) (s : State) : Host.Outcome State Fault Refusal :=
  write8 .icsC1 wdata s

/-- `RD8.ICS.C2` (R277). -/
def execRd8IcsC2 (s : State) : Host.Outcome State Fault Refusal :=
  read8 .icsC2 s

/-- `WR8.ICS.C2` (R278). -/
def execWr8IcsC2 (wdata : Byte) (s : State) : Host.Outcome State Fault Refusal :=
  write8 .icsC2 wdata s

/-- `RD8.ICS.C3` (R279). -/
def execRd8IcsC3 (s : State) : Host.Outcome State Fault Refusal :=
  read8 .icsC3 s

/-- `WR8.ICS.C3` (R280). -/
def execWr8IcsC3 (wdata : Byte) (s : State) : Host.Outcome State Fault Refusal :=
  write8 .icsC3 wdata s

/-- `RD8.ICS.C4` (R281). -/
def execRd8IcsC4 (s : State) : Host.Outcome State Fault Refusal :=
  read8 .icsC4 s

/-- `WR8.ICS.C4` (R282). -/
def execWr8IcsC4 (wdata : Byte) (s : State) : Host.Outcome State Fault Refusal :=
  write8 .icsC4 wdata s

/-- `RD8.ICS.S` (R283). -/
def execRd8IcsS (s : State) : Host.Outcome State Fault Refusal :=
  read8 .icsS s

/-- `WR8.ICS.S` (R284). -/
def execWr8IcsS (wdata : Byte) (s : State) : Host.Outcome State Fault Refusal :=
  write8 .icsS wdata s

end Sys2Proof.Machine
end

