-- ==== Sys2Proof/Machine/Syst.lean ====
section
/-! DEFINITION. The System Tick access transactions (42_systick.md R157 to R164). -/

namespace Sys2Proof.Machine

/-- `RD32.SYST.CSR` (R157). -/
def execRd32SystCsr (s : State) : Host.Outcome State Fault Refusal :=
  read32 .csr s

/-- `WR32.SYST.CSR` (R158). -/
def execWr32SystCsr (wdata : DWord) (s : State) : Host.Outcome State Fault Refusal :=
  write32 .csr wdata s

/-- `RD32.SYST.RVR` (R159). -/
def execRd32SystRvr (s : State) : Host.Outcome State Fault Refusal :=
  read32 .rvr s

/-- `WR32.SYST.RVR` (R160). -/
def execWr32SystRvr (wdata : DWord) (s : State) : Host.Outcome State Fault Refusal :=
  write32 .rvr wdata s

/-- `RD32.SYST.CVR` (R161). -/
def execRd32SystCvr (s : State) : Host.Outcome State Fault Refusal :=
  read32 .cvr s

/-- `WR32.SYST.CVR` (R162). -/
def execWr32SystCvr (wdata : DWord) (s : State) : Host.Outcome State Fault Refusal :=
  write32 .cvr wdata s

/-- `RD32.SYST.CALIB` (R163). -/
def execRd32SystCalib (s : State) : Host.Outcome State Fault Refusal :=
  read32 .calib s

/-- `WR32.SYST.CALIB` (R164). -/
def execWr32SystCalib (wdata : DWord) (s : State) : Host.Outcome State Fault Refusal :=
  write32 .calib wdata s

end Sys2Proof.Machine
end

