-- ==== Sys2Proof/Machine/Uart.lean ====
section
/-! DEFINITION. The UART byte access transactions (44_uart.md R245 to R260). -/

namespace Sys2Proof.Machine

/-- `RD8.UART.BDH` (R245). -/
def execRd8UartBdh (s : State) : Host.Outcome State Fault Refusal :=
  read8 .uartBdh s

/-- `WR8.UART.BDH` (R246). -/
def execWr8UartBdh (wdata : Byte) (s : State) : Host.Outcome State Fault Refusal :=
  write8 .uartBdh wdata s

/-- `RD8.UART.BDL` (R247). -/
def execRd8UartBdl (s : State) : Host.Outcome State Fault Refusal :=
  read8 .uartBdl s

/-- `WR8.UART.BDL` (R248). -/
def execWr8UartBdl (wdata : Byte) (s : State) : Host.Outcome State Fault Refusal :=
  write8 .uartBdl wdata s

/-- `RD8.UART.C1` (R249). -/
def execRd8UartC1 (s : State) : Host.Outcome State Fault Refusal :=
  read8 .uartC1 s

/-- `WR8.UART.C1` (R250). -/
def execWr8UartC1 (wdata : Byte) (s : State) : Host.Outcome State Fault Refusal :=
  write8 .uartC1 wdata s

/-- `RD8.UART.C2` (R251). -/
def execRd8UartC2 (s : State) : Host.Outcome State Fault Refusal :=
  read8 .uartC2 s

/-- `WR8.UART.C2` (R252). -/
def execWr8UartC2 (wdata : Byte) (s : State) : Host.Outcome State Fault Refusal :=
  write8 .uartC2 wdata s

/-- `RD8.UART.S1` (R253). -/
def execRd8UartS1 (s : State) : Host.Outcome State Fault Refusal :=
  read8 .uartS1 s

/-- `WR8.UART.S1` (R254). -/
def execWr8UartS1 (wdata : Byte) (s : State) : Host.Outcome State Fault Refusal :=
  write8 .uartS1 wdata s

/-- `RD8.UART.S2` (R255). -/
def execRd8UartS2 (s : State) : Host.Outcome State Fault Refusal :=
  read8 .uartS2 s

/-- `WR8.UART.S2` (R256). -/
def execWr8UartS2 (wdata : Byte) (s : State) : Host.Outcome State Fault Refusal :=
  write8 .uartS2 wdata s

/-- `RD8.UART.C3` (R257). -/
def execRd8UartC3 (s : State) : Host.Outcome State Fault Refusal :=
  read8 .uartC3 s

/-- `WR8.UART.C3` (R258). -/
def execWr8UartC3 (wdata : Byte) (s : State) : Host.Outcome State Fault Refusal :=
  write8 .uartC3 wdata s

/-- `RD8.UART.D` (R259). -/
def execRd8UartD (s : State) : Host.Outcome State Fault Refusal :=
  read8 .uartD s

/-- `WR8.UART.D` (R260). -/
def execWr8UartD (wdata : Byte) (s : State) : Host.Outcome State Fault Refusal :=
  write8 .uartD wdata s

end Sys2Proof.Machine
end

