-- ==== Sys2Proof/Machine/Wdog.lean ====
section
/-! DEFINITION. The Watchdog byte access transactions (43_watchdog.md R188 to R203). -/

namespace Sys2Proof.Machine

/-- `RD8.WDOG.CS1` (R188). -/
def execRd8WdogCs1 (s : State) : Host.Outcome State Fault Refusal :=
  read8 .wdogCs1 s

/-- `WR8.WDOG.CS1` (R189). -/
def execWr8WdogCs1 (wdata : Byte) (s : State) : Host.Outcome State Fault Refusal :=
  write8 .wdogCs1 wdata s

/-- `RD8.WDOG.CS2` (R190). -/
def execRd8WdogCs2 (s : State) : Host.Outcome State Fault Refusal :=
  read8 .wdogCs2 s

/-- `WR8.WDOG.CS2` (R191). -/
def execWr8WdogCs2 (wdata : Byte) (s : State) : Host.Outcome State Fault Refusal :=
  write8 .wdogCs2 wdata s

/-- `RD8.WDOG.CNTH` (R192). -/
def execRd8WdogCnth (s : State) : Host.Outcome State Fault Refusal :=
  read8 .wdogCnth s

/-- `WR8.WDOG.CNTH` (R193). -/
def execWr8WdogCnth (wdata : Byte) (s : State) : Host.Outcome State Fault Refusal :=
  write8 .wdogCnth wdata s

/-- `RD8.WDOG.CNTL` (R194). -/
def execRd8WdogCntl (s : State) : Host.Outcome State Fault Refusal :=
  read8 .wdogCntl s

/-- `WR8.WDOG.CNTL` (R195). -/
def execWr8WdogCntl (wdata : Byte) (s : State) : Host.Outcome State Fault Refusal :=
  write8 .wdogCntl wdata s

/-- `RD8.WDOG.TOVALH` (R196). -/
def execRd8WdogTovalh (s : State) : Host.Outcome State Fault Refusal :=
  read8 .wdogTovalh s

/-- `WR8.WDOG.TOVALH` (R197). -/
def execWr8WdogTovalh (wdata : Byte) (s : State) : Host.Outcome State Fault Refusal :=
  write8 .wdogTovalh wdata s

/-- `RD8.WDOG.TOVALL` (R198). -/
def execRd8WdogTovall (s : State) : Host.Outcome State Fault Refusal :=
  read8 .wdogTovall s

/-- `WR8.WDOG.TOVALL` (R199). -/
def execWr8WdogTovall (wdata : Byte) (s : State) : Host.Outcome State Fault Refusal :=
  write8 .wdogTovall wdata s

/-- `RD8.WDOG.WINH` (R200). -/
def execRd8WdogWinh (s : State) : Host.Outcome State Fault Refusal :=
  read8 .wdogWinh s

/-- `WR8.WDOG.WINH` (R201). -/
def execWr8WdogWinh (wdata : Byte) (s : State) : Host.Outcome State Fault Refusal :=
  write8 .wdogWinh wdata s

/-- `RD8.WDOG.WINL` (R202). -/
def execRd8WdogWinl (s : State) : Host.Outcome State Fault Refusal :=
  read8 .wdogWinl s

/-- `WR8.WDOG.WINL` (R203). -/
def execWr8WdogWinl (wdata : Byte) (s : State) : Host.Outcome State Fault Refusal :=
  write8 .wdogWinl wdata s

end Sys2Proof.Machine
end

