-- ==== Sys2Proof/Machine/Wide.lean ====
section
/-! DEFINITION. The wide accesses of the width adapter (40_regfile.md R101 to R121). -/

namespace Sys2Proof.Machine

/-- `MemRead((dev, O), 2)` (R101): a register that does not exist refuses the access before any byte is read (R98, R301). -/
def wideRead16 (dev : Device) (off : BitVec 8) (s : State) : Host.Outcome State Fault Refusal :=
  match regsAt dev off.toNat 2 with
  | none => .refused .outOfRange
  | some rs => .next (answer (.word (joinBytes 16 (readSeq rs s).1)) (readSeq rs s).2)

/-- `MemRead((dev, O), 4)` (R101). -/
def wideRead32 (dev : Device) (off : BitVec 8) (s : State) : Host.Outcome State Fault Refusal :=
  match regsAt dev off.toNat 4 with
  | none => .refused .outOfRange
  | some rs => .next (answer (.dword (joinBytes 32 (readSeq rs s).1)) (readSeq rs s).2)

/-- `MemWrite((dev, O), 2, v)` (R101). -/
def wideWrite16 (dev : Device) (off : BitVec 8) (v : BitVec 16) (s : State) : Host.Outcome State Fault Refusal :=
  match regsAt dev off.toNat 2 with
  | none => .refused .outOfRange
  | some rs => .next (writeSeq rs (splitBytes 2 v) s)

/-- `MemWrite((dev, O), 4, v)` (R101). -/
def wideWrite32 (dev : Device) (off : BitVec 8) (v : DWord) (s : State) : Host.Outcome State Fault Refusal :=
  match regsAt dev off.toNat 4 with
  | none => .refused .outOfRange
  | some rs => .next (writeSeq rs (splitBytes 4 v) s)

/-- `RD16.WDOG` (R110). -/
def execRd16Wdog (off : BitVec 8) (s : State) : Host.Outcome State Fault Refusal :=
  wideRead16 .wdog off s

/-- `WR16.WDOG` (R111). -/
def execWr16Wdog (off : BitVec 8) (wdata : BitVec 16) (s : State) : Host.Outcome State Fault Refusal :=
  wideWrite16 .wdog off wdata s

/-- `RD32.WDOG` (R112). -/
def execRd32Wdog (off : BitVec 8) (s : State) : Host.Outcome State Fault Refusal :=
  wideRead32 .wdog off s

/-- `WR32.WDOG` (R113). -/
def execWr32Wdog (off : BitVec 8) (wdata : DWord) (s : State) : Host.Outcome State Fault Refusal :=
  wideWrite32 .wdog off wdata s

/-- `RD16.UART` (R114). -/
def execRd16Uart (off : BitVec 8) (s : State) : Host.Outcome State Fault Refusal :=
  wideRead16 .uart off s

/-- `WR16.UART` (R115). -/
def execWr16Uart (off : BitVec 8) (wdata : BitVec 16) (s : State) : Host.Outcome State Fault Refusal :=
  wideWrite16 .uart off wdata s

/-- `RD32.UART` (R116). -/
def execRd32Uart (off : BitVec 8) (s : State) : Host.Outcome State Fault Refusal :=
  wideRead32 .uart off s

/-- `WR32.UART` (R117). -/
def execWr32Uart (off : BitVec 8) (wdata : DWord) (s : State) : Host.Outcome State Fault Refusal :=
  wideWrite32 .uart off wdata s

/-- `RD16.ICS` (R118). -/
def execRd16Ics (off : BitVec 8) (s : State) : Host.Outcome State Fault Refusal :=
  wideRead16 .ics off s

/-- `WR16.ICS` (R119). -/
def execWr16Ics (off : BitVec 8) (wdata : BitVec 16) (s : State) : Host.Outcome State Fault Refusal :=
  wideWrite16 .ics off wdata s

/-- `RD32.ICS` (R120). -/
def execRd32Ics (off : BitVec 8) (s : State) : Host.Outcome State Fault Refusal :=
  wideRead32 .ics off s

/-- `WR32.ICS` (R121). -/
def execWr32Ics (off : BitVec 8) (wdata : DWord) (s : State) : Host.Outcome State Fault Refusal :=
  wideWrite32 .ics off wdata s

end Sys2Proof.Machine
end

