-- ==== Sys2Proof/Machine/Dispatch.lean ====
section
/-! DEFINITION. `exec`: one arm per transaction of spec/opcode_table.json, each one call of its meaning. -/

namespace Sys2Proof.Machine

def exec (i : Instr) (s : State) : Host.Outcome State Fault Refusal :=
  match i with
  | .rd32SystCsr => Sys2Proof.Machine.execRd32SystCsr s
  | .wr32SystCsr wdata => Sys2Proof.Machine.execWr32SystCsr wdata s
  | .rd32SystRvr => Sys2Proof.Machine.execRd32SystRvr s
  | .wr32SystRvr wdata => Sys2Proof.Machine.execWr32SystRvr wdata s
  | .rd32SystCvr => Sys2Proof.Machine.execRd32SystCvr s
  | .wr32SystCvr wdata => Sys2Proof.Machine.execWr32SystCvr wdata s
  | .rd32SystCalib => Sys2Proof.Machine.execRd32SystCalib s
  | .wr32SystCalib wdata => Sys2Proof.Machine.execWr32SystCalib wdata s
  | .rd8WdogCs1 => Sys2Proof.Machine.execRd8WdogCs1 s
  | .wr8WdogCs1 wdata => Sys2Proof.Machine.execWr8WdogCs1 wdata s
  | .rd8WdogCs2 => Sys2Proof.Machine.execRd8WdogCs2 s
  | .wr8WdogCs2 wdata => Sys2Proof.Machine.execWr8WdogCs2 wdata s
  | .rd8WdogCnth => Sys2Proof.Machine.execRd8WdogCnth s
  | .wr8WdogCnth wdata => Sys2Proof.Machine.execWr8WdogCnth wdata s
  | .rd8WdogCntl => Sys2Proof.Machine.execRd8WdogCntl s
  | .wr8WdogCntl wdata => Sys2Proof.Machine.execWr8WdogCntl wdata s
  | .rd8WdogTovalh => Sys2Proof.Machine.execRd8WdogTovalh s
  | .wr8WdogTovalh wdata => Sys2Proof.Machine.execWr8WdogTovalh wdata s
  | .rd8WdogTovall => Sys2Proof.Machine.execRd8WdogTovall s
  | .wr8WdogTovall wdata => Sys2Proof.Machine.execWr8WdogTovall wdata s
  | .rd8WdogWinh => Sys2Proof.Machine.execRd8WdogWinh s
  | .wr8WdogWinh wdata => Sys2Proof.Machine.execWr8WdogWinh wdata s
  | .rd8WdogWinl => Sys2Proof.Machine.execRd8WdogWinl s
  | .wr8WdogWinl wdata => Sys2Proof.Machine.execWr8WdogWinl wdata s
  | .rd8UartBdh => Sys2Proof.Machine.execRd8UartBdh s
  | .wr8UartBdh wdata => Sys2Proof.Machine.execWr8UartBdh wdata s
  | .rd8UartBdl => Sys2Proof.Machine.execRd8UartBdl s
  | .wr8UartBdl wdata => Sys2Proof.Machine.execWr8UartBdl wdata s
  | .rd8UartC1 => Sys2Proof.Machine.execRd8UartC1 s
  | .wr8UartC1 wdata => Sys2Proof.Machine.execWr8UartC1 wdata s
  | .rd8UartC2 => Sys2Proof.Machine.execRd8UartC2 s
  | .wr8UartC2 wdata => Sys2Proof.Machine.execWr8UartC2 wdata s
  | .rd8UartS1 => Sys2Proof.Machine.execRd8UartS1 s
  | .wr8UartS1 wdata => Sys2Proof.Machine.execWr8UartS1 wdata s
  | .rd8UartS2 => Sys2Proof.Machine.execRd8UartS2 s
  | .wr8UartS2 wdata => Sys2Proof.Machine.execWr8UartS2 wdata s
  | .rd8UartC3 => Sys2Proof.Machine.execRd8UartC3 s
  | .wr8UartC3 wdata => Sys2Proof.Machine.execWr8UartC3 wdata s
  | .rd8UartD => Sys2Proof.Machine.execRd8UartD s
  | .wr8UartD wdata => Sys2Proof.Machine.execWr8UartD wdata s
  | .rd8IcsC1 => Sys2Proof.Machine.execRd8IcsC1 s
  | .wr8IcsC1 wdata => Sys2Proof.Machine.execWr8IcsC1 wdata s
  | .rd8IcsC2 => Sys2Proof.Machine.execRd8IcsC2 s
  | .wr8IcsC2 wdata => Sys2Proof.Machine.execWr8IcsC2 wdata s
  | .rd8IcsC3 => Sys2Proof.Machine.execRd8IcsC3 s
  | .wr8IcsC3 wdata => Sys2Proof.Machine.execWr8IcsC3 wdata s
  | .rd8IcsC4 => Sys2Proof.Machine.execRd8IcsC4 s
  | .wr8IcsC4 wdata => Sys2Proof.Machine.execWr8IcsC4 wdata s
  | .rd8IcsS => Sys2Proof.Machine.execRd8IcsS s
  | .wr8IcsS wdata => Sys2Proof.Machine.execWr8IcsS wdata s
  | .rd16Wdog off => Sys2Proof.Machine.execRd16Wdog off s
  | .wr16Wdog off wdata => Sys2Proof.Machine.execWr16Wdog off wdata s
  | .rd32Wdog off => Sys2Proof.Machine.execRd32Wdog off s
  | .wr32Wdog off wdata => Sys2Proof.Machine.execWr32Wdog off wdata s
  | .rd16Uart off => Sys2Proof.Machine.execRd16Uart off s
  | .wr16Uart off wdata => Sys2Proof.Machine.execWr16Uart off wdata s
  | .rd32Uart off => Sys2Proof.Machine.execRd32Uart off s
  | .wr32Uart off wdata => Sys2Proof.Machine.execWr32Uart off wdata s
  | .rd16Ics off => Sys2Proof.Machine.execRd16Ics off s
  | .wr16Ics off wdata => Sys2Proof.Machine.execWr16Ics off wdata s
  | .rd32Ics off => Sys2Proof.Machine.execRd32Ics off s
  | .wr32Ics off wdata => Sys2Proof.Machine.execWr32Ics off wdata s
  | .tickSyst => Sys2Proof.Machine.execTickSyst s
  | .tickWdog => Sys2Proof.Machine.execTickWdog s
  | .resetSyst => Sys2Proof.Machine.execResetSyst s
  | .resetWdog => Sys2Proof.Machine.execResetWdog s
  | .resetUart => Sys2Proof.Machine.execResetUart s
  | .resetIcs => Sys2Proof.Machine.execResetIcs s
  | .machineReset => Sys2Proof.Machine.execMachineReset s
  | .rxpush byte => Sys2Proof.Machine.execRxpush byte s

end Sys2Proof.Machine
end

