-- ==== Sys2Proof/Machine/Step.lean ====
section
/-! DEFINITION. One step of the machine: the next transaction in the total order of the agents' steps (20_memory.md R62) is
decoded and executed as one atomic step (R60). -/

namespace Sys2Proof.Machine

/-- One step. After a fault no step is enabled (60_exceptions.md R305, R321); with no transaction offered nothing happens
(log 1); a refused transaction has no step (R301). -/
def step (s : State) : Host.Outcome State Fault Refusal :=
  match s.fault with
  | some r => .fault r
  | none =>
    match takeTransaction s with
    | none => .next s
    | some (t, s') =>
      match decode t with
      | .error e => .refused (Refusal.ofDecode e)
      | .ok i => exec i s'

/-- `s` with the transaction of the bits `w` offered as the next one (log 1, log 14, log 20). -/
def State.withFetchWord (s : State) (nbits w : Nat) : State :=
  offerNext (tableTransaction nbits w) s

end Sys2Proof.Machine
end

