-- ==== Sys2Proof/Safety.lean ====
section
/-! DEFINITION. What counts as a well-kept state and a safe run of the block, in the terms the claims use. -/

namespace Sys2Proof.Machine

/-- Reserved bits, tagged fields and registers without storage hold no state (10_state.md R22): every stored bit lies in a
field that holds state. -/
def RegsClean (s : State) : Prop :=
  (∀ r : Reg8, get8 r s &&& ~~~storedMask 8 s.cfg (fields8 r) = 0) ∧
    ∀ r : Reg32, get32 r s &&& ~~~storedMask 32 s.cfg (fields32 r) = 0

/-- The transmit queue's bound (44_uart.md R231): at most max(P_TXWM - 1, 0) bytes. -/
def TxqBounded (s : State) : Prop :=
  s.txq.length ≤ max (s.cfg.txwm - 1) 0

/-- The timers' bound (10_state.md R43): a count is below its limit when the limit is at least 1, `P_RELOAD_SETS_LIMIT` is
false and no fault is recorded. -/
def CountsBelowLimits (s : State) : Prop :=
  s.cfg.reloadSetsLimit = false → s.fault = none →
    (1 ≤ s.tS.limit → s.tS.count < s.tS.limit) ∧ (1 ≤ s.tW.limit → s.tW.count < s.tW.limit)

/-- The host offers no transaction that is refused (60_exceptions.md R301: the source's programming contract). -/
def HostContract (s : State) : Prop :=
  ∀ t ∈ s.pending, ∃ i, decode t = .ok i

/-- No timer can reach a limit of 0, so no tick can fault (41_timer_core.md R134). -/
def LimitsPositive (s : State) : Prop :=
  s.cfg.reloadSetsLimit = false ∧ 1 ≤ s.cfg.systLimit0 ∧ 1 ≤ s.cfg.wdogLimit0 ∧ 1 ≤ s.tS.limit ∧ 1 ≤ s.tW.limit

/-- The states from which a run never stops: no fault so far, a host that keeps its contract, positive limits. -/
def RunsOn (s : State) : Prop :=
  s.fault = none ∧ HostContract s ∧ LimitsPositive s

end Sys2Proof.Machine
end

