-- ==== Sys2Proof/Certificates/Slice0/Obligations.lean ====
section
/-! DEFINITION. The statements about the model, from the numbered rules of spec/. Where a conclusion gives a whole next state as
a record update of the state before, everything it does not name is unchanged: that equation is the frame as well. -/

namespace Sys2Proof.Claims

open Sys2Proof.Machine

/-- The stored bits of a byte register: those of its RW fields that are not tagged (10_state.md R22). -/
def keptBits (s : State) (r : Reg8) : Byte :=
  storedMask 8 s.cfg (fields8 r)

/-- The warnings a write of a byte register records: one per tagged field (40_regfile.md R92). -/
def tagLogs (s : State) (r : Reg8) : List Event :=
  List.replicate (taggedCount s.cfg (fields8 r)) (.log .taggedWrite)

/-- The event of a recomputation that takes the line from `old` to `new` (44_uart.md R226). -/
def lineEvents (old new : Bool) : List Event :=
  if new = old then [] else [.irqLevel new]

/-- R226's formula over the bits of C2 and the receive occupancy: TE = C2[3], TIE = C2[7], RE = C2[2], RIE = C2[5]. -/
def lineFormula (c2 : Byte) (occupancy rxwm : Nat) : Bool :=
  (c2.getLsbD 3 && c2.getLsbD 7) || (c2.getLsbD 2 && c2.getLsbD 5 && decide (rxwm ≤ occupancy))

/-- The level a history leaves the UART line at, from `b`. -/
def lineAfter (b : Bool) (es : List Event) : Bool :=
  es.foldl (fun v e => match e with | .irqLevel x => x | _ => v) b

/-- The bytes a history sent to the transmit sink, in order. -/
def sentBytes (es : List Event) : List Byte :=
  es.filterMap (fun e => match e with | .txByte b => some b | _ => none)

/-- The byte-read transaction of an offset of a byte-native device. -/
def byteRead : Device → Nat → Option Instr
  | .syst, _ => none
  | .wdog, o => wdogRead o
  | .uart, o => uartRead o
  | .ics, o => icsRead o

/-- The byte-write transaction of an offset of a byte-native device. -/
def byteWrite : Device → Nat → Byte → Option Instr
  | .syst, _, _ => none
  | .wdog, o, v => wdogWrite o v
  | .uart, o, v => uartWrite o v
  | .ics, o, v => icsWrite o v

/-- The SYST register at an offset (20_memory.md R51). -/
def systReg (off : Nat) : Option Reg32 :=
  match off with
  | 0 => some .csr
  | 4 => some .rvr
  | 8 => some .cvr
  | 12 => some .calib
  | _ => none

/-- The wide transactions of a byte-native device. -/
def wordRead : Device → BitVec 8 → Option Instr
  | .syst, _ => none
  | .wdog, o => some (.rd16Wdog o)
  | .uart, o => some (.rd16Uart o)
  | .ics, o => some (.rd16Ics o)

def wordWrite : Device → BitVec 8 → BitVec 16 → Option Instr
  | .syst, _, _ => none
  | .wdog, o, v => some (.wr16Wdog o v)
  | .uart, o, v => some (.wr16Uart o v)
  | .ics, o, v => some (.wr16Ics o v)

def dwordRead : Device → BitVec 8 → Option Instr
  | .syst, _ => none
  | .wdog, o => some (.rd32Wdog o)
  | .uart, o => some (.rd32Uart o)
  | .ics, o => some (.rd32Ics o)

def dwordWrite : Device → BitVec 8 → DWord → Option Instr
  | .syst, _, _ => none
  | .wdog, o, v => some (.wr32Wdog o v)
  | .uart, o, v => some (.wr32Uart o v)
  | .ics, o, v => some (.wr32Ics o v)

/-- Transaction `i` reads `d` from `s`. -/
def Reads (i : Instr) (s : State) (d : Data) : Prop :=
  ∃ t, exec i s = .next t ∧ t.rdata = d

/-- A list of transactions executed one after the other. -/
def runAll : List Instr → State → Host.Outcome State Fault Refusal
  | [], s => .next s
  | i :: is, s =>
    match exec i s with
    | .next t => runAll is t
    | .fault r => .fault r
    | .refused r => .refused r

/-- 30_encoding.md R76 over the fields of a descriptor. -/
def ListedDescriptor (d : BitVec 16) : Prop :=
  (descField d 14 2 = 0 ∧ descField d 8 2 ≠ 3 ∧
    ((descField d 11 3 = 0 ∧ descField d 8 2 = 2 ∧ descField d 0 8 ∈ [0x0, 0x4, 0x8, 0xC]) ∨
      (descField d 11 3 ∈ [1, 2] ∧ descField d 0 8 + 2 ^ descField d 8 2 ≤ 8) ∨
      (descField d 11 3 = 3 ∧ descField d 0 8 + 2 ^ descField d 8 2 ≤ 5))) ∨
  (descField d 14 2 = 1 ∧
    ((descField d 0 8 = 0 ∧ (descField d 11 3, descField d 8 3) ∈
        [(0, 0), (1, 0), (0, 1), (1, 1), (2, 1), (3, 1), (7, 1)]) ∨
      (descField d 11 3 = 2 ∧ descField d 8 3 = 2)))

/-- 60_exceptions.md R301's `Illegal`: reserved KIND, DEV, W or EV, an unlisted event pair, a nonzero ARG outside RXPUSH. -/
def IllegalFields (d : BitVec 16) : Prop :=
  2 ≤ descField d 14 2 ∨
  (descField d 14 2 = 0 ∧ (4 ≤ descField d 11 3 ∨ descField d 8 2 = 3)) ∨
  (descField d 14 2 = 1 ∧ ¬ (descField d 11 3 = 2 ∧ descField d 8 3 = 2) ∧
    (descField d 0 8 ≠ 0 ∨ (descField d 11 3, descField d 8 3) ∉
      [(0, 0), (1, 0), (0, 1), (1, 1), (2, 1), (3, 1), (7, 1)]))

/-- The operand a decoded descriptor goes with (30_encoding.md R70). -/
def OperandFits : Desc → Data → Prop
  | .access _ true .byte _, .byte _ => True
  | .access _ true .word _, .word _ => True
  | .access _ true .dword _, .dword _ => True
  | .access _ false _ _, .none => True
  | .rxPush _, .none => True
  | .tick _, .none => True
  | .reset _, .none => True
  | .machineReset, .none => True
  | _, _ => False

/-- Every reset value of a parameter is the default of 10_state.md R47, and every inert field is storage. -/
def DefaultResetValues (p : Params) : Prop :=
  p.tagged = [] ∧ p.rvSystCsr = 0 ∧ p.rvSystRvr = 0 ∧ p.rvSystCvr = 0 ∧ p.rvWdogCnth = 0 ∧ p.rvWdogCntl = 0 ∧
  p.rvWdogTovalh = 0 ∧ p.rvWdogTovall = 0x04 ∧ p.rvWdogWinh = 0 ∧ p.rvWdogWinl = 0 ∧ p.rvUartBdh = 0 ∧
  p.rvUartBdl = 0x04 ∧ p.rvUartC1 = 0 ∧ p.rvUartC2 = 0 ∧ p.rvUartS2 = 0 ∧ p.rvUartC3 = 0 ∧ p.rvUartD = 0 ∧
  p.rvIcsC1 = 0x04 ∧ p.rvIcsC2 = 0x20 ∧ p.rvIcsC4 = 0 ∧ p.rvIcsS = 0x10

/-- The UART line agrees with the history: the last recorded level, or false (44_uart.md R226). -/
def LineMatchesHistory (s : State) : Prop :=
  lineAfter false s.hist = s.uartIrq

/-- The read result of one draw from {stored, live} under `P_CURRENT_READ` (42_systick.md R155, 43_watchdog.md R185): the
draw counter moves under `Either` only, and its value is the model's own (log 4). -/
def DrawnFrom {w : Nat} (mode : CurrentRead) (stored live x : BitVec w) (before after : Nat) : Prop :=
  match mode with
  | .stored => x = stored ∧ after = before
  | .live => x = live ∧ after = before
  | .either => (x = stored ∨ x = live) ∧ after = before + 1

/-- A timer's expiry as 41_timer_core.md R135 gives it: the events in order. -/
def expiryEvents (t : TimerId) (ie : Bool) : List Event :=
  (if ie then [.irqPulse t] else []) ++ [.resetRequest t]

/-- How often a timer has expired: its reset requests in the history (41_timer_core.md R135). -/
def expiries (t : TimerId) (s : State) : Nat :=
  s.hist.countP (fun e => decide (e = .resetRequest t))

end Sys2Proof.Claims

open Sys2Proof Sys2Proof.Machine Sys2Proof.Claims

/-! Encoding. -/

/-- Every well-formed transaction, with every operand, decodes from its encoding to itself (30_encoding.md R78, R82). -/
def Obligations.EncodedTransactionDecodesToItself : Prop :=
  ∀ i : Instr, i.wf = true → decode (encode i) = .ok i

/-- What decodes is well-formed and its encoding is the transaction it came from, so no two transactions share a meaning. -/
def Obligations.DecodedTransactionEncodesBack : Prop :=
  ∀ (t : Transaction) (i : Instr), decode t = .ok i → i.wf = true ∧ encode i = t

/-- 30_encoding.md R76: the descriptors that decode are exactly the listed ones. -/
def Obligations.DescriptorDecodesIffListed : Prop :=
  ∀ d : BitVec 16, (∃ x, decodeDesc d = .ok x) ↔ ListedDescriptor d

/-- 60_exceptions.md R307: the reason reported for a descriptor, in R307's order; a listed one reports none; only a tick can
fault. -/
def Obligations.RefusalReasonsInOrder : Prop :=
  ∀ d : BitVec 16,
    (IllegalFields d → decodeDesc d = .error .illegal) ∧
    (¬ IllegalFields d → ¬ ListedDescriptor d → descField d 11 3 = 0 →
      decodeDesc d = .error (if descField d 0 8 < 16 then .badWidth else .outOfRange)) ∧
    (¬ IllegalFields d → ¬ ListedDescriptor d → descField d 11 3 ≠ 0 → decodeDesc d = .error .outOfRange) ∧
    (ListedDescriptor d → ∃ x, decodeDesc d = .ok x) ∧
    (∀ (i : Instr) (s t : State), exec i s = .next t → s.fault = none → t.fault ≠ none → i = .tickSyst ∨ i = .tickWdog)

/-- The model's choice for a pair R70 does not admit (log 13): a legal descriptor with the operand it fixes decodes to an
instruction, with any other operand it is refused as a mismatch. -/
def Obligations.OperandMustFitDescriptor : Prop :=
  ∀ (d : BitVec 16) (x : Desc) (w : Data), decodeDesc d = .ok x →
    (OperandFits x w → ∃ i, decode ⟨d, w⟩ = .ok i) ∧
    (¬ OperandFits x w → decode ⟨d, w⟩ = .error .operandMismatch)

/-- Descriptors written out from R72 to R78's fields, one or more per family, and refused ones (95_test_vectors.md E1 to E25). -/
def Obligations.WrittenOutDescriptorsDecode : Prop :=
  decode ⟨0b0000001000000000, .none⟩ = .ok .rd32SystCsr ∧
  decode ⟨0b0000011000001100, .dword 1⟩ = .ok (.wr32SystCalib 1) ∧
  decode ⟨0b0000110000000000, .byte 0⟩ = .ok (.wr8WdogCs1 0) ∧
  decode ⟨0b0000110100000100, .word 0xBEEF⟩ = .ok (.wr16Wdog 4 0xBEEF) ∧
  decode ⟨0b0001000000000111, .none⟩ = .ok .rd8UartD ∧
  decode ⟨0b0001101000000001, .none⟩ = .ok (.rd32Ics 1) ∧
  decode ⟨0b0100100000000000, .none⟩ = .ok .tickWdog ∧
  decode ⟨0b0101001001000001, .none⟩ = .ok (.rxpush 0x41) ∧
  decode ⟨0b0111100100000000, .none⟩ = .ok .machineReset ∧
  decodeDesc 0x0000 = .error .badWidth ∧ decodeDesc 0x0202 = .error .badWidth ∧
  decodeDesc 0x0210 = .error .outOfRange ∧ decodeDesc 0x0808 = .error .outOfRange ∧
  decodeDesc 0x0907 = .error .outOfRange ∧ decodeDesc 0x1A02 = .error .outOfRange ∧
  decodeDesc 0x0300 = .error .illegal ∧ decodeDesc 0x2000 = .error .illegal ∧ decodeDesc 0x3800 = .error .illegal ∧
  decodeDesc 0x8000 = .error .illegal ∧ decodeDesc 0x4001 = .error .illegal ∧ decodeDesc 0x5000 = .error .illegal ∧
  decodeDesc 0x4B00 = .error .illegal ∧ decodeDesc 0x7A00 = .error .illegal

/-! The step. -/

/-- A step takes the oldest offered transaction and executes it; with none offered nothing happens (the model's choice, log
1); the transaction `withFetchWord` offers is the one the next step runs. -/
def Obligations.StepRunsTheDecodedTransaction : Prop :=
  (∀ (s : State) (tr : Transaction) (rest : List Transaction) (i : Instr), s.fault = none → s.pending = tr :: rest →
    decode tr = .ok i → step s = exec i { s with pending := rest }) ∧
  (∀ s : State, s.fault = none → s.pending = [] → step s = .next s) ∧
  (∀ (s : State) (nbits w : Nat) (i : Instr), s.fault = none → decodeTableWord nbits w = some i →
    step (s.withFetchWord nbits w) = exec i s)

/-- 60_exceptions.md R301, R306: a transaction that does not decode has no step, and the refusal carries its reason and code; the
reason operandMismatch is the model's own (log 13). -/
def Obligations.RefusedTransactionHasNoStep : Prop :=
  ∀ (s : State) (tr : Transaction) (rest : List Transaction), s.fault = none → s.pending = tr :: rest →
    (decode tr = .error .illegal → step s = .refused .illegal ∧ Refusal.illegal.code = some 3) ∧
    (decode tr = .error .badWidth → step s = .refused .badWidth ∧ Refusal.badWidth.code = some 2) ∧
    (decode tr = .error .outOfRange → step s = .refused .outOfRange ∧ Refusal.outOfRange.code = some 1) ∧
    (decode tr = .error .operandMismatch → step s = .refused .operandMismatch)

/-- 60_exceptions.md R321: every transaction of the table is enabled in every state without a fault and completes in one step;
none is enabled once a fault is recorded. The model's reading (DEDUCED, log 6), not R321's words: exec does not look at a recorded
fault (step does), and the tick that faults answers a next state with the fault recorded. -/
def Obligations.EveryTransactionIsEnabledUntilAFault : Prop :=
  (∀ (s : State) (i : Instr), i.wf = true → ∃ t, exec i s = .next t) ∧
  (∀ (s : State) (tr : Transaction) (rest : List Transaction) (i : Instr), s.fault = none → s.pending = tr :: rest →
    decode tr = .ok i → ∃ t, step s = .next t) ∧
  (∀ (s : State) (r : Fault), s.fault = some r → step s = .fault r)

/-! Invariants and whole-machine rules. -/

/-- 10_state.md R22, 40_regfile.md R97: reserved bits and tagged fields never come to hold state. -/
def Obligations.StepKeepsRegistersClean : Prop :=
  ∀ s t : State, RegsClean s → step s = .next t → RegsClean t

/-- 44_uart.md R231: the transmit queue is bounded at construction and after every step, and TDRE reads 1 within the bound; the
queue is empty and TC reads 1 too when P_TXWM is at most 1. -/
def Obligations.StepKeepsTransmitQueueBounded : Prop :=
  (∀ p : Params, TxqBounded (.construct p)) ∧
  (∀ s t : State, TxqBounded s → step s = .next t → TxqBounded t) ∧
  (∀ s : State, TxqBounded s → tdre s = true ∧ (s.cfg.txwm ≤ 1 → s.txq = [] ∧ tc s = true))

/-- 10_state.md R43: a timer's count stays below its limit while `P_RELOAD_SETS_LIMIT` is false and no fault is recorded. -/
def Obligations.StepKeepsCountsBelowLimits : Prop :=
  ∀ s t : State, CountsBelowLimits s → step s = .next t → CountsBelowLimits t

/-- The level of the UART line is always the last one recorded (44_uart.md R226, 60_exceptions.md R310). -/
def Obligations.StepKeepsLineMatchingHistory : Prop :=
  ∀ s t : State, LineMatchesHistory s → step s = .next t → LineMatchesHistory t

/-- The four invariants hold after construction, whatever the parameters. That the line matches the empty history also when
`RV_UART_C2` would make its formula true is the model's choice (DEDUCED, log 17): construction leaves `uart_irq` false and recomputes
nothing. The clean registers take ENABLE as 0 whatever `RV_SYST_CSR` and reserved bits as 0 (DEDUCED, log 15, log 16). -/
def Obligations.ConstructedStateMeetsTheInvariants : Prop :=
  ∀ p : Params, RegsClean (.construct p) ∧ TxqBounded (.construct p) ∧ CountsBelowLimits (.construct p) ∧
    LineMatchesHistory (.construct p)

/-- 00_scope.md R5: no step changes a parameter. -/
def Obligations.StepKeepsParameters : Prop :=
  ∀ s t : State, step s = .next t → t.cfg = s.cfg

/-- 10_state.md R47, 70_reset_and_hazards.md R332: the history is never cleared, by no reset either: every step only appends. -/
def Obligations.HistoryOnlyGrows : Prop :=
  ∀ s t : State, step s = .next t → ∃ es, t.hist = s.hist ++ es

/-- With a host that offers no refused transaction, positive default limits and `P_RELOAD_SETS_LIMIT` false, no run stops. A run
longer than the pending transactions goes on by the idle step, which answers the same state: the model's choice (DESIGN CHOICE,
log 1). -/
def Obligations.RunWithinTheContractNeverStops : Prop :=
  (∀ s : State, RunsOn s → ∃ t, step s = .next t ∧ RunsOn t) ∧
  ∀ (n : Nat) (s : State), RunsOn s → ∃ t, Host.Core.run core n s = .next t ∧ RunsOn t

/-- A transaction changes the state of its own device only: by the DEV field of its descriptor, the registers, timer, queue and
buffers of the others stay (41_timer_core.md R140: "ticks to SYST never change WDOG state"; 46_host_events.md R290). -/
def Obligations.TransactionChangesItsDeviceOnly : Prop :=
  ∀ (i : Instr) (s t : State), exec i s = .next t →
    (descField (encode i).desc 11 3 = 0 →
      t.wdog = s.wdog ∧ t.tW = s.tW ∧ t.uart = s.uart ∧ t.txq = s.txq ∧ t.uartIrq = s.uartIrq ∧ t.rxbuf = s.rxbuf ∧
        t.ics = s.ics) ∧
    (descField (encode i).desc 11 3 = 1 →
      t.syst = s.syst ∧ t.tS = s.tS ∧ t.uart = s.uart ∧ t.txq = s.txq ∧ t.uartIrq = s.uartIrq ∧ t.rxbuf = s.rxbuf ∧
        t.ics = s.ics) ∧
    (descField (encode i).desc 11 3 = 2 →
      t.syst = s.syst ∧ t.tS = s.tS ∧ t.wdog = s.wdog ∧ t.tW = s.tW ∧ t.ics = s.ics ∧
        t.resetPending = s.resetPending ∧ t.fault = s.fault) ∧
    (descField (encode i).desc 11 3 = 3 →
      t.syst = s.syst ∧ t.tS = s.tS ∧ t.wdog = s.wdog ∧ t.tW = s.tW ∧ t.uart = s.uart ∧ t.txq = s.txq ∧
        t.uartIrq = s.uartIrq ∧ t.rxbuf = s.rxbuf ∧ t.resetPending = s.resetPending ∧ t.fault = s.fault) ∧
    t.pending = s.pending

/-- 70_reset_and_hazards.md R354: no access moves a timer's count; a tick keeps it, adds one, or zeroes it at an expiry, and
otherwise only the device's reset or the machine reset zeroes it. -/
def Obligations.SoftwareCannotRestartATimer : Prop :=
  (∀ (i : Instr) (s t : State), exec i s = .next t → i ≠ .tickSyst → i ≠ .resetSyst → i ≠ .machineReset →
    t.tS.count = s.tS.count) ∧
  (∀ (i : Instr) (s t : State), exec i s = .next t → i ≠ .tickWdog → i ≠ .resetWdog → i ≠ .machineReset →
    t.tW.count = s.tW.count) ∧
  (∀ s t : State, exec .tickSyst s = .next t → t.tS.count = s.tS.count ∨ t.tS.count = s.tS.count + 1 ∨
    (t.tS.count = 0 ∧ t.hist = s.hist ++ expiryEvents .syst (s.syst.csr.getLsbD 1))) ∧
  (∀ s t : State, exec .tickWdog s = .next t → t.tW.count = s.tW.count ∨ t.tW.count = s.tW.count + 1 ∨
    (t.tW.count = 0 ∧ t.hist = s.hist ++ expiryEvents .wdog (s.wdog.cs1.getLsbD 6)))

/-- A reset request becomes pending only at an expiring tick, which records it, and only MACHINE_RESET clears it
(10_state.md R45: true from a timer expiry until the host's machine reset). -/
def Obligations.ResetPendingFromExpiryToMachineReset : Prop :=
  ∀ (i : Instr) (s t : State), exec i s = .next t →
    (s.resetPending = false → t.resetPending = true →
      (i = .tickSyst ∧ t.hist = s.hist ++ expiryEvents .syst (s.syst.csr.getLsbD 1)) ∨
      (i = .tickWdog ∧ t.hist = s.hist ++ expiryEvents .wdog (s.wdog.cs1.getLsbD 6))) ∧
    (s.resetPending = true → t.resetPending = false → i = .machineReset)

/-! System Tick. -/

/-- 42_systick.md R152: CSR reads CLKSOURCE, TICKINT and ENABLE; CLKSOURCE reads 0 when tagged (R93, R95). -/
def Obligations.SystCsrReadGivesItsFields : Prop :=
  ∀ (s : State) (fields : BitVec 3),
    fields = BitVec.ofBool (s.syst.csr.getLsbD 2 && !s.cfg.tagged.contains .systClksource) ++
      BitVec.ofBool (s.syst.csr.getLsbD 1) ++ BitVec.ofBool (s.syst.csr.getLsbD 0) →
    exec .rd32SystCsr s = .next { s with rdata := .dword (fields.setWidth 32) }

/-- 42_systick.md R151, 41_timer_core.md R131, R133: a CSR write stores the three fields and drops every other bit; neither
the enable nor the interrupt-enable field has any other effect. A tagged CLKSOURCE is logged instead (40_regfile.md R92). -/
def Obligations.SystCsrWriteStoresItsFields : Prop :=
  ∀ (s : State) (v : DWord), RegsClean s → exec (.wr32SystCsr v) s = .next { s with
    syst := { s.syst with csr := v &&& (if s.cfg.tagged.contains .systClksource then 3 else 7) }
    hist := s.hist ++ (if s.cfg.tagged.contains .systClksource then [.log .taggedWrite] else []) }

/-- 42_systick.md R153: RVR write and read. -/
def Obligations.SystReloadWriteAndRead : Prop :=
  (∀ (s : State) (v : DWord), RegsClean s → exec (.wr32SystRvr v) s = .next { s with
    syst := { s.syst with rvr := v &&& 0xFFFFFF }
    tS := if s.cfg.reloadSetsLimit then { s.tS with limit := v.toNat % 2 ^ 24 } else s.tS }) ∧
  (∀ s : State, exec .rd32SystRvr s = .next { s with rdata := .dword (s.syst.rvr &&& 0xFFFFFF) })

/-- 42_systick.md R154: a CVR write stores CURRENT and has no other effect. -/
def Obligations.SystCurrentWriteStoresOnly : Prop :=
  ∀ (s : State) (v : DWord), RegsClean s → exec (.wr32SystCvr v) s = .next { s with
    syst := { s.syst with cvr := v &&& 0xFFFFFF } }

/-- 42_systick.md R155, 41_timer_core.md R146: a CVR read returns the stored field, the live value limit - count truncated to
24 bits, or a draw from the two, by `P_CURRENT_READ`. Where the count exceeds the limit R146 states no live value: some value of
24 bits is read (log 5). -/
def Obligations.SystCurrentReadIsStoredOrLive : Prop :=
  ∀ s : State, ∃ (live x : BitVec 24) (n : Nat),
    exec .rd32SystCvr s = .next { s with rdata := .dword (x.setWidth 32), draws := n } ∧
    (s.tS.count ≤ s.tS.limit → live.toNat = (s.tS.limit - s.tS.count) % 2 ^ 24) ∧
    DrawnFrom s.cfg.currentRead (s.syst.cvr.setWidth 24) live x s.draws n

/-- 42_systick.md R156: CALIB reads the parameter; a write changes nothing and records nothing. -/
def Obligations.SystCalibIsConstant : Prop :=
  (∀ s : State, exec .rd32SystCalib s = .next { s with rdata := .dword s.cfg.systCalib }) ∧
  (∀ (s : State) (v : DWord), exec (.wr32SystCalib v) s = .next s)

/-! Watchdog. -/

/-- 43_watchdog.md R181, R182: CS1 and CS2 reads give their stored fields, writes store them, drop reserved bits and log
tagged fields; the timer is not touched. -/
def Obligations.WdogControlReadAndWrite : Prop :=
  (∀ s : State, exec .rd8WdogCs1 s = .next { s with rdata := .byte (s.wdog.cs1 &&& keptBits s .wdogCs1) }) ∧
  (∀ s : State, exec .rd8WdogCs2 s = .next { s with rdata := .byte (s.wdog.cs2 &&& keptBits s .wdogCs2) }) ∧
  (∀ (s : State) (v : Byte), RegsClean s → exec (.wr8WdogCs1 v) s = .next { s with
    wdog := { s.wdog with cs1 := v &&& keptBits s .wdogCs1 }, hist := s.hist ++ tagLogs s .wdogCs1 }) ∧
  (∀ (s : State) (v : Byte), RegsClean s → exec (.wr8WdogCs2 v) s = .next { s with
    wdog := { s.wdog with cs2 := v &&& keptBits s .wdogCs2 }, hist := s.hist ++ tagLogs s .wdogCs2 })

/-- 43_watchdog.md R184: a counter-byte write stores the byte and nothing else. -/
def Obligations.WdogCounterWriteStoresOnly : Prop :=
  (∀ (s : State) (v : Byte), exec (.wr8WdogCnth v) s = .next { s with wdog := { s.wdog with cnth := v } }) ∧
  (∀ (s : State) (v : Byte), exec (.wr8WdogCntl v) s = .next { s with wdog := { s.wdog with cntl := v } })

/-- 43_watchdog.md R185: a counter-byte read returns the stored byte, the live byte of the count truncated to 16 bits, or a
draw from the two. -/
def Obligations.WdogCounterReadIsStoredOrLive : Prop :=
  (∀ s : State, ∃ (x : Byte) (n : Nat),
    exec .rd8WdogCnth s = .next { s with rdata := .byte x, draws := n } ∧
    DrawnFrom s.cfg.currentRead s.wdog.cnth (BitVec.ofNat 8 (s.tW.count % 2 ^ 16 / 256)) x s.draws n) ∧
  (∀ s : State, ∃ (x : Byte) (n : Nat),
    exec .rd8WdogCntl s = .next { s with rdata := .byte x, draws := n } ∧
    DrawnFrom s.cfg.currentRead s.wdog.cntl (BitVec.ofNat 8 (s.tW.count % 256)) x s.draws n)

/-- 43_watchdog.md R183: a timeout-byte write stores the byte and, under `P_RELOAD_SETS_LIMIT`, sets the limit to
TOVALH:TOVALL after the store; the read gives the stored byte. -/
def Obligations.WdogTimeoutWriteAndRead : Prop :=
  (∀ (s : State) (v : Byte), exec (.wr8WdogTovalh v) s = .next { s with
    wdog := { s.wdog with tovalh := v }
    tW := if s.cfg.reloadSetsLimit then { s.tW with limit := v.toNat * 256 + s.wdog.tovall.toNat } else s.tW }) ∧
  (∀ (s : State) (v : Byte), exec (.wr8WdogTovall v) s = .next { s with
    wdog := { s.wdog with tovall := v }
    tW := if s.cfg.reloadSetsLimit then { s.tW with limit := s.wdog.tovalh.toNat * 256 + v.toNat } else s.tW }) ∧
  (∀ s : State, exec .rd8WdogTovalh s = .next { s with rdata := .byte s.wdog.tovalh }) ∧
  (∀ s : State, exec .rd8WdogTovall s = .next { s with rdata := .byte s.wdog.tovall })

/-- 43_watchdog.md R186: a window byte is stored and read back; under `P_FIELDKIND` = tagged it reads 0 and a write is only
logged. Nothing else happens: no comparison, no reset. -/
def Obligations.WdogWindowIsStorage : Prop :=
  (∀ s : State, RegsClean s →
    exec .rd8WdogWinh s = .next { s with rdata := .byte s.wdog.winh } ∧
    exec .rd8WdogWinl s = .next { s with rdata := .byte s.wdog.winl }) ∧
  (∀ (s : State) (v : Byte), RegsClean s → exec (.wr8WdogWinh v) s = .next
    (if s.cfg.tagged.contains .wdogWinh then { s with hist := s.hist ++ [.log .taggedWrite] }
      else { s with wdog := { s.wdog with winh := v } })) ∧
  (∀ (s : State) (v : Byte), RegsClean s → exec (.wr8WdogWinl v) s = .next
    (if s.cfg.tagged.contains .wdogWinl then { s with hist := s.hist ++ [.log .taggedWrite] }
      else { s with wdog := { s.wdog with winl := v } })) ∧
  (∀ s : State, RegsClean s → (s.cfg.tagged.contains .wdogWinh = true → s.wdog.winh = 0) ∧
    (s.cfg.tagged.contains .wdogWinl = true → s.wdog.winl = 0))

/-! The register file. -/

/-- The stored bits of every register with all inert fields storage, from the tables of 10_state.md (43_watchdog.md R191, 44_uart.md
R246, R256, R258, 45_ics.md R278, R282: what writing 0xFF reads back). -/
def Obligations.WritingOnesReadsBackTheFieldBits : Prop :=
  ∀ (s : State), s.cfg.tagged = [] →
    ∀ rw ∈ [(Device.wdog, 0, 0xFF), (.wdog, 1, 0xD3), (.wdog, 4, 0xFF), (.wdog, 5, 0xFF), (.wdog, 6, 0xFF),
        (.wdog, 7, 0xFF), (.uart, 0, 0xDF), (.uart, 1, 0xFF), (.uart, 2, 0xFF), (.uart, 3, 0xFF), (.uart, 5, 0x1E),
        (.uart, 6, 0x7F), (.ics, 0, 0xFF), (.ics, 1, 0xF0), (.ics, 2, 0xFF), (.ics, 3, (0xA1 : Byte))],
      ∃ i j t u, byteWrite rw.1 rw.2.1 0xFF = some i ∧ byteRead rw.1 rw.2.1 = some j ∧ exec i s = .next t ∧
        exec j t = .next u ∧ u.rdata = .byte rw.2.2

/-- 40_regfile.md R97: whatever was written, the bits of a register that no field covers read 0, and two writes that differ in
those bits only have the same effect. -/
def Obligations.ReservedBitsReadZeroAndAreDropped : Prop :=
  (∀ (s : State) (dev : Device) (off : Nat) (i : Instr) (r : Reg8), byteRead dev off = some i → byteReg dev off = some r →
    ∃ t b, exec i s = .next t ∧ t.rdata = .byte b ∧ b &&& ~~~coveredMask 8 (fields8 r) = 0) ∧
  (∀ (s : State) (off : Nat) (i : Instr) (r : Reg32), systRead off = some i → systReg off = some r →
    ∃ t x, exec i s = .next t ∧ t.rdata = .dword x ∧ x &&& ~~~coveredMask 32 (fields32 r) = 0) ∧
  (∀ (s : State) (dev : Device) (off : Nat) (i j : Instr) (r : Reg8) (v w : Byte), byteReg dev off = some r →
    byteWrite dev off v = some i → byteWrite dev off w = some j →
    v &&& coveredMask 8 (fields8 r) = w &&& coveredMask 8 (fields8 r) → exec i s = exec j s) ∧
  (∀ (s : State) (off : Nat) (i j : Instr) (r : Reg32) (v w : DWord), systReg off = some r →
    systWrite off v = some i → systWrite off w = some j →
    v &&& coveredMask 32 (fields32 r) = w &&& coveredMask 32 (fields32 r) → exec i s = exec j s)

/-- 40_regfile.md R92, R93, R95 (vector F-V6): a tagged field of a byte register reads 0, and a write of its register stores
nothing in it and records a warning. -/
def Obligations.TaggedFieldReadsZeroAndIsLogged : Prop :=
  ∀ (s : State) (dev : Device) (off : Nat) (r : Reg8) (f : Field), byteReg dev off = some r → f ∈ fields8 r →
    f.inert = true → f.name ∈ s.cfg.tagged →
    (∃ i t b, byteRead dev off = some i ∧ exec i s = .next t ∧ t.rdata = .byte b ∧ b &&& fieldMask 8 f = 0) ∧
    (∀ v, ∃ i t, byteWrite dev off v = some i ∧ exec i s = .next t ∧
      get8 r t &&& fieldMask 8 f = get8 r s &&& fieldMask 8 f ∧
      ∃ es, t.hist = s.hist ++ es ∧ Event.log .taggedWrite ∈ es)

/-! UART. -/

/-- 44_uart.md R233: BDH, BDL, C1, S2 and C3 are storage with no other effect; RO flags read 0. -/
def Obligations.UartStorageReadAndWrite : Prop :=
  (∀ s : State,
    exec .rd8UartBdh s = .next { s with rdata := .byte (s.uart.bdh &&& keptBits s .uartBdh) } ∧
    exec .rd8UartBdl s = .next { s with rdata := .byte (s.uart.bdl &&& keptBits s .uartBdl) } ∧
    exec .rd8UartC1 s = .next { s with rdata := .byte (s.uart.c1 &&& keptBits s .uartC1) } ∧
    exec .rd8UartS2 s = .next { s with rdata := .byte (s.uart.s2 &&& keptBits s .uartS2) } ∧
    exec .rd8UartC3 s = .next { s with rdata := .byte (s.uart.c3 &&& keptBits s .uartC3) }) ∧
  (∀ (s : State) (v : Byte), RegsClean s →
    exec (.wr8UartBdh v) s = .next { s with
      uart := { s.uart with bdh := v &&& keptBits s .uartBdh }, hist := s.hist ++ tagLogs s .uartBdh } ∧
    exec (.wr8UartBdl v) s = .next { s with
      uart := { s.uart with bdl := v &&& keptBits s .uartBdl }, hist := s.hist ++ tagLogs s .uartBdl } ∧
    exec (.wr8UartC1 v) s = .next { s with
      uart := { s.uart with c1 := v &&& keptBits s .uartC1 }, hist := s.hist ++ tagLogs s .uartC1 } ∧
    exec (.wr8UartS2 v) s = .next { s with
      uart := { s.uart with s2 := v &&& keptBits s .uartS2 }, hist := s.hist ++ tagLogs s .uartS2 } ∧
    exec (.wr8UartC3 v) s = .next { s with
      uart := { s.uart with c3 := v &&& keptBits s .uartC3 }, hist := s.hist ++ tagLogs s .uartC3 })

/-- 44_uart.md R232: a C2 write stores the fields, then recomputes the line once; queue and buffer stay. -/
def Obligations.UartControl2ReadAndWrite : Prop :=
  (∀ s : State, exec .rd8UartC2 s = .next { s with rdata := .byte (s.uart.c2 &&& keptBits s .uartC2) }) ∧
  (∀ (s : State) (v : Byte), RegsClean s → exec (.wr8UartC2 v) s = .next { s with
    uart := { s.uart with c2 := v &&& keptBits s .uartC2 }
    uartIrq := lineFormula v s.rxbuf.length s.cfg.rxwm
    hist := s.hist ++ tagLogs s .uartC2 ++ lineEvents s.uartIrq (lineFormula v s.rxbuf.length s.cfg.rxwm) })

/-- 44_uart.md R230 with R223 to R225: S1 reads TDRE, TC and RDRF as the state gives them and 0 in its other bits; a write
changes nothing and records nothing. -/
def Obligations.UartStatus1ReadAndWrite : Prop :=
  (∀ (s : State) (flags : Byte),
    flags = BitVec.ofBool (decide (s.txq.length ≤ s.cfg.txwm)) ++ BitVec.ofBool (decide (s.txq = [])) ++
      BitVec.ofBool (decide (s.rxbuf.length ≥ s.cfg.rxwm)) ++ 0#5 →
    exec .rd8UartS1 s = .next { s with rdata := .byte flags }) ∧
  (∀ (s : State) (v : Byte), exec (.wr8UartS1 v) s = .next s)

/-- 44_uart.md R236, R237: a D write with TE = 0 only logs; with TE = 1 the byte is enqueued, the whole queue goes out head first
once it has P_TXWM bytes, and the line is recomputed. The field itself stores the byte, unobservably (R234). -/
def Obligations.UartDataWrite : Prop :=
  ∀ (s : State) (v : Byte),
    (s.uart.c2.getLsbD 3 = false → exec (.wr8UartD v) s = .next { s with
      uart := { s.uart with d := v }, hist := s.hist ++ [.log .txDisabled] }) ∧
    (s.uart.c2.getLsbD 3 = true → s.txq.length + 1 < s.cfg.txwm → exec (.wr8UartD v) s = .next { s with
      uart := { s.uart with d := v }
      txq := s.txq ++ [v]
      uartIrq := lineFormula s.uart.c2 s.rxbuf.length s.cfg.rxwm
      hist := s.hist ++ lineEvents s.uartIrq (lineFormula s.uart.c2 s.rxbuf.length s.cfg.rxwm) }) ∧
    (s.uart.c2.getLsbD 3 = true → s.cfg.txwm ≤ s.txq.length + 1 → exec (.wr8UartD v) s = .next { s with
      uart := { s.uart with d := v }
      txq := []
      uartIrq := lineFormula s.uart.c2 s.rxbuf.length s.cfg.rxwm
      hist := s.hist ++ (s.txq ++ [v]).map .txByte ++
        lineEvents s.uartIrq (lineFormula s.uart.c2 s.rxbuf.length s.cfg.rxwm) })

/-- 44_uart.md R239: a D read with RE = 0 returns 0 and logs; with an empty buffer it returns 0, logs and recomputes; else it pops
the head and recomputes. -/
def Obligations.UartDataRead : Prop :=
  ∀ s : State,
    (s.uart.c2.getLsbD 2 = false → exec .rd8UartD s = .next { s with
      rdata := .byte 0, hist := s.hist ++ [.log .rxDisabled] }) ∧
    (s.uart.c2.getLsbD 2 = true → s.rxbuf = [] → exec .rd8UartD s = .next { s with
      rdata := .byte 0
      uartIrq := lineFormula s.uart.c2 0 s.cfg.rxwm
      hist := s.hist ++ [.log .rxEmpty] ++ lineEvents s.uartIrq (lineFormula s.uart.c2 0 s.cfg.rxwm) }) ∧
    (∀ b rest, s.uart.c2.getLsbD 2 = true → s.rxbuf = b :: rest → exec .rd8UartD s = .next { s with
      rdata := .byte b
      rxbuf := rest
      uartIrq := lineFormula s.uart.c2 rest.length s.cfg.rxwm
      hist := s.hist ++ lineEvents s.uartIrq (lineFormula s.uart.c2 rest.length s.cfg.rxwm) })

/-- 44_uart.md R229: after every recomputation point of R227 the line equals the documented formula over the state reached. -/
def Obligations.LineFollowsFormulaAtRecomputation : Prop :=
  ∀ s t : State,
    ((∃ v, exec (.wr8UartC2 v) s = .next t) ∨
      (s.uart.c2.getLsbD 3 = true ∧ ∃ v, exec (.wr8UartD v) s = .next t) ∨
      (s.uart.c2.getLsbD 2 = true ∧ exec .rd8UartD s = .next t) ∨
      exec .resetUart s = .next t ∨ exec .machineReset s = .next t ∨
      (s.cfg.rxpushRecompute = true ∧ ∃ b, exec (.rxpush b) s = .next t)) →
    t.uartIrq = lineFormula t.uart.c2 t.rxbuf.length t.cfg.rxwm

/-- 44_uart.md R238: from an empty queue with TE = 1, N writes of D send the bytes in order and leave the queue empty when
P_TXWM is at most 1 or divides N, else the last N mod P_TXWM bytes queued; with TE = 0 each sends nothing and logs once. -/
def Obligations.UartSendsWrittenBytesInOrder : Prop :=
  (∀ (s : State) (bs : List Byte), s.uart.c2.getLsbD 3 = true → s.txq = [] →
    ∃ t es, runAll (bs.map .wr8UartD) s = .next t ∧ t.hist = s.hist ++ es ∧
      ∃ m, m = (if s.cfg.txwm ≤ 1 then bs.length else bs.length - bs.length % s.cfg.txwm) ∧
        sentBytes es = bs.take m ∧ t.txq = bs.drop m) ∧
  (∀ (s : State) (bs : List Byte), s.uart.c2.getLsbD 3 = false →
    ∃ t, runAll (bs.map .wr8UartD) s = .next t ∧ t.txq = s.txq ∧
      t.hist = s.hist ++ List.replicate bs.length (.log .txDisabled))

/-- 70_reset_and_hazards.md R353: when S1 reads RDRF = 1 (P_RXWM at least 1) and any bytes arrive after it, a D read with
RE = 1 returns the byte that was at the head. -/
def Obligations.StatusReadBeforeDataGuaranteesAByte : Prop :=
  ∀ (s t : State) (x : Byte) (bs : List Byte), 1 ≤ s.cfg.rxwm → s.uart.c2.getLsbD 2 = true →
    exec .rd8UartS1 s = .next t → t.rdata = .byte x → x.getLsbD 5 = true →
    ∃ b rest u v, s.rxbuf = b :: rest ∧ runAll (bs.map .rxpush) t = .next u ∧ exec .rd8UartD u = .next v ∧
      v.rdata = .byte b ∧ v.rxbuf = rest ++ bs

/-! ICS. -/

/-- 45_ics.md R275 to R282: C1 to C4 read and store their fields and do nothing else. -/
def Obligations.IcsRegistersReadAndWrite : Prop :=
  (∀ s : State,
    exec .rd8IcsC1 s = .next { s with rdata := .byte (s.ics.c1 &&& keptBits s .icsC1) } ∧
    exec .rd8IcsC2 s = .next { s with rdata := .byte (s.ics.c2 &&& keptBits s .icsC2) } ∧
    exec .rd8IcsC3 s = .next { s with rdata := .byte (s.ics.c3 &&& keptBits s .icsC3) } ∧
    exec .rd8IcsC4 s = .next { s with rdata := .byte (s.ics.c4 &&& keptBits s .icsC4) }) ∧
  (∀ (s : State) (v : Byte), RegsClean s →
    exec (.wr8IcsC1 v) s = .next { s with
      ics := { s.ics with c1 := v &&& keptBits s .icsC1 }, hist := s.hist ++ tagLogs s .icsC1 } ∧
    exec (.wr8IcsC2 v) s = .next { s with
      ics := { s.ics with c2 := v &&& keptBits s .icsC2 }, hist := s.hist ++ tagLogs s .icsC2 } ∧
    exec (.wr8IcsC3 v) s = .next { s with
      ics := { s.ics with c3 := v &&& keptBits s .icsC3 }, hist := s.hist ++ tagLogs s .icsC3 } ∧
    exec (.wr8IcsC4 v) s = .next { s with
      ics := { s.ics with c4 := v &&& keptBits s .icsC4 }, hist := s.hist ++ tagLogs s .icsC4 })

/-- 45_ics.md R283, R284: S reads `RV_ICS_S`, whatever the mode; a write changes nothing. -/
def Obligations.IcsStatusIsConstant : Prop :=
  (∀ s : State, exec .rd8IcsS s = .next { s with rdata := .byte s.cfg.rvIcsS }) ∧
  (∀ (s : State) (v : Byte), exec (.wr8IcsS v) s = .next s)

/-- 45_ics.md R271, R273, R274: the mode is the guarded function of the live CLKS, IREFS and LP bits, and a C1 or C2 write changes
it at once. -/
def Obligations.IcsModeFollowsItsTable : Prop :=
  ∀ (s t u : State) (v w : Byte), exec (.wr8IcsC1 v) s = .next t → exec (.wr8IcsC2 w) t = .next u →
    icsMode u =
      (match (v.extractLsb' 6 2).toNat, v.getLsbD 2, w.getLsbD 4 with
        | 0, true, _ => .fei
        | 0, false, _ => .fee
        | 1, false, false => .fbi
        | 2, false, false => .fbe
        | 2, false, true => .fbelp
        | 1, true, true => .fbilp
        | _, _, _ => .stop)

/-! Wide accesses. -/

/-- 20_memory.md R54, R58, 40_regfile.md R103: a wide read at a legal offset completes and is the byte reads at O, O + 1, ...
performed back to back, the byte at O most significant. -/
def Obligations.WideReadIsByteReadsBackToBack : Prop :=
  (∀ (s : State) (dev : Device) (o : BitVec 8) (i : Instr), wordRead dev o = some i → i.wf = true →
    ∃ i0 i1 s0 s1 b0 b1, byteRead dev o.toNat = some i0 ∧ byteRead dev (o.toNat + 1) = some i1 ∧
      exec i0 s = .next s0 ∧ s0.rdata = .byte b0 ∧ exec i1 s0 = .next s1 ∧ s1.rdata = .byte b1 ∧
      exec i s = .next { s1 with rdata := .word (b0 ++ b1) }) ∧
  (∀ (s : State) (dev : Device) (o : BitVec 8) (i : Instr), dwordRead dev o = some i → i.wf = true →
    ∃ i0 i1 i2 i3 s0 s1 s2 s3 b0 b1 b2 b3,
      byteRead dev o.toNat = some i0 ∧ byteRead dev (o.toNat + 1) = some i1 ∧
      byteRead dev (o.toNat + 2) = some i2 ∧ byteRead dev (o.toNat + 3) = some i3 ∧
      exec i0 s = .next s0 ∧ s0.rdata = .byte b0 ∧ exec i1 s0 = .next s1 ∧ s1.rdata = .byte b1 ∧
      exec i2 s1 = .next s2 ∧ s2.rdata = .byte b2 ∧ exec i3 s2 = .next s3 ∧ s3.rdata = .byte b3 ∧
      exec i s = .next { s3 with rdata := .dword (b0 ++ b1 ++ b2 ++ b3) })

/-- 40_regfile.md R102, R104: a wide write at a legal offset completes and is the byte writes at O, O + 1, ... performed back to
back, the most significant byte at O. -/
def Obligations.WideWriteIsByteWritesBackToBack : Prop :=
  (∀ (s : State) (dev : Device) (o : BitVec 8) (v : BitVec 16) (i : Instr), wordWrite dev o v = some i → i.wf = true →
    ∃ i0 i1 t, byteWrite dev o.toNat (v.extractLsb' 8 8) = some i0 ∧
      byteWrite dev (o.toNat + 1) (v.extractLsb' 0 8) = some i1 ∧
      runAll [i0, i1] s = .next t ∧ exec i s = .next t) ∧
  (∀ (s : State) (dev : Device) (o : BitVec 8) (v : DWord) (i : Instr), dwordWrite dev o v = some i → i.wf = true →
    ∃ i0 i1 i2 i3 t, byteWrite dev o.toNat (v.extractLsb' 24 8) = some i0 ∧
      byteWrite dev (o.toNat + 1) (v.extractLsb' 16 8) = some i1 ∧
      byteWrite dev (o.toNat + 2) (v.extractLsb' 8 8) = some i2 ∧
      byteWrite dev (o.toNat + 3) (v.extractLsb' 0 8) = some i3 ∧
      runAll [i0, i1, i2, i3] s = .next t ∧ exec i s = .next t)

/-- 40_regfile.md R98: a wide access with a byte at or beyond the device's size is refused, with no step. -/
def Obligations.WideAccessBeyondTheSizeIsRefused : Prop :=
  ∀ (s : State) (i : Instr), i.wf = false → exec i s = .refused .outOfRange

/-- 40_regfile.md R105: a 16-bit write then read at the same watchdog offset returns the value, at TOVAL, at WIN with storage
kind, and at CNT when `P_CURRENT_READ` is Stored. -/
def Obligations.WideWriteThenReadReturnsTheValue : Prop :=
  ∀ (s : State) (o : BitVec 8) (v : BitVec 16),
    (o = 4 ∨ (o = 6 ∧ FieldName.wdogWinh ∉ s.cfg.tagged ∧ FieldName.wdogWinl ∉ s.cfg.tagged) ∨
      (o = 2 ∧ s.cfg.currentRead = .stored)) →
    ∃ t u, exec (.wr16Wdog o v) s = .next t ∧ exec (.rd16Wdog o) t = .next u ∧ u.rdata = .word v

/-! Timers. -/

/-- 41_timer_core.md R134, R132, R140, R141: a tick of a Disabled timer does nothing; of a Running one below its limit it adds one
to the count and nothing else. -/
def Obligations.TickCountsWhileRunning : Prop :=
  (∀ s : State, s.syst.csr.getLsbD 0 = false → exec .tickSyst s = .next s) ∧
  (∀ s : State, s.wdog.cs1.getLsbD 7 = false → exec .tickWdog s = .next s) ∧
  (∀ s : State, s.syst.csr.getLsbD 0 = true → s.tS.count + 1 < s.tS.limit →
    exec .tickSyst s = .next { s with tS := { s.tS with count := s.tS.count + 1 } }) ∧
  (∀ s : State, s.wdog.cs1.getLsbD 7 = true → s.tW.count + 1 < s.tW.limit →
    exec .tickWdog s = .next { s with tW := { s.tW with count := s.tW.count + 1 } })

/-- 41_timer_core.md R135, R143: the tick that reaches the limit pulses the line only if the interrupt-enable field is set, requests
the reset always, and restarts the count; R136: once. -/
def Obligations.TickExpiresAtTheLimit : Prop :=
  (∀ s : State, s.syst.csr.getLsbD 0 = true → s.tS.limit ≠ 0 → s.tS.limit ≤ s.tS.count + 1 →
    exec .tickSyst s = .next { s with
      tS := { s.tS with count := 0 }
      resetPending := true
      hist := s.hist ++ expiryEvents .syst (s.syst.csr.getLsbD 1) }) ∧
  (∀ s : State, s.wdog.cs1.getLsbD 7 = true → s.tW.limit ≠ 0 → s.tW.limit ≤ s.tW.count + 1 →
    exec .tickWdog s = .next { s with
      tW := { s.tW with count := 0 }
      resetPending := true
      hist := s.hist ++ expiryEvents .wdog (s.wdog.cs1.getLsbD 6) })

/-- 60_exceptions.md R305: a tick of a Running timer with limit 0 records the fault and changes nothing else; after it no
transaction has a step, and the fault's code is 16 (R306). The model's reading (DEDUCED, log 6): the tick that faults answers a next
state with the fault recorded, and exec in a state with a fault is the transaction's meaning alone, which step never runs. -/
def Obligations.ZeroLimitTickRecordsTheFault : Prop :=
  (∀ s : State, s.syst.csr.getLsbD 0 = true → s.tS.limit = 0 →
    exec .tickSyst s = .next { s with fault := some .unmodelledLimitZero }) ∧
  (∀ s : State, s.wdog.cs1.getLsbD 7 = true → s.tW.limit = 0 →
    exec .tickWdog s = .next { s with fault := some .unmodelledLimitZero }) ∧
  (∀ s : State, s.fault = some .unmodelledLimitZero → step s = .fault .unmodelledLimitZero) ∧
  (∀ (i : Instr) (s t : State), exec i s = .next t → s.fault = some .unmodelledLimitZero →
    t.fault = some .unmodelledLimitZero) ∧
  Fault.unmodelledLimitZero.code = 16

/-- 41_timer_core.md R142: from a count of 0 and a limit of at least 1, enabling the timer and then exactly `limit` ticks gives
exactly one expiry and fewer give none; disabling it before the limit is reached prevents any expiry. -/
def Obligations.ExactlyLimitTicksExpireOnce : Prop :=
  (∀ (s : State) (v : DWord) (n : Nat), s.tS.count = 0 → 1 ≤ s.tS.limit → v.getLsbD 0 = true →
    ∃ t, runAll (.wr32SystCsr v :: List.replicate n .tickSyst) s = .next t ∧
      (n < s.tS.limit → t.tS.count = n ∧ expiries .syst t = expiries .syst s) ∧
      (n = s.tS.limit → t.tS.count = 0 ∧ t.resetPending = true ∧ expiries .syst t = expiries .syst s + 1)) ∧
  (∀ (s : State) (v w : DWord) (k m : Nat), s.tS.count = 0 → k < s.tS.limit → v.getLsbD 0 = true → w.getLsbD 0 = false →
    ∃ t, runAll (.wr32SystCsr v :: List.replicate k .tickSyst ++ .wr32SystCsr w :: List.replicate m .tickSyst) s = .next t ∧
      t.tS.count = k ∧ t.resetPending = s.resetPending ∧ expiries .syst t = expiries .syst s) ∧
  (∀ (s : State) (v : Byte) (n : Nat), s.tW.count = 0 → 1 ≤ s.tW.limit → v.getLsbD 7 = true →
    ∃ t, runAll (.wr8WdogCs1 v :: List.replicate n .tickWdog) s = .next t ∧
      (n < s.tW.limit → t.tW.count = n ∧ expiries .wdog t = expiries .wdog s) ∧
      (n = s.tW.limit → t.tW.count = 0 ∧ t.resetPending = true ∧ expiries .wdog t = expiries .wdog s + 1)) ∧
  (∀ (s : State) (v w : Byte) (k m : Nat), s.tW.count = 0 → k < s.tW.limit → v.getLsbD 7 = true → w.getLsbD 7 = false →
    ∃ t, runAll (.wr8WdogCs1 v :: List.replicate k .tickWdog ++ .wr8WdogCs1 w :: List.replicate m .tickWdog) s = .next t ∧
      t.tW.count = k ∧ t.resetPending = s.resetPending ∧ expiries .wdog t = expiries .wdog s)

/-! Host events. -/

/-- 46_host_events.md R290, R291, R293: the resets of SYST, WDOG and ICS put the device's registers and timer at their reset values and
change nothing else. The ENABLE bit is 0 and CS1 0x80 whatever the parameters (CSR under `RV_SYST_CSR`, log 16). -/
def Obligations.DeviceResetRestoresTheDevice : Prop :=
  (∀ s : State, exec .resetSyst s = .next { s with syst := .reset s.cfg, tS := ⟨0, s.cfg.systLimit0⟩ } ∧
    (SystRegs.reset s.cfg).csr.getLsbD 0 = false) ∧
  (∀ s : State, exec .resetWdog s = .next { s with wdog := .reset s.cfg, tW := ⟨0, s.cfg.wdogLimit0⟩ } ∧
    (WdogRegs.reset s.cfg).cs1 = 0x80 ∧ (WdogRegs.reset s.cfg).cs2 = 0x01) ∧
  (∀ s : State, exec .resetIcs s = .next { s with ics := .reset s.cfg })

/-- 46_host_events.md R292: the UART's reset clears the queue without sending it, restores the registers, keeps the receive buffer and
recomputes the line, which goes false when `RV_UART_C2` is 0. -/
def Obligations.UartResetClearsQueueKeepsBuffer : Prop :=
  ∀ s : State, ∃ v : Bool,
    exec .resetUart s = .next { s with
      uart := .reset s.cfg, txq := [], uartIrq := v, hist := s.hist ++ lineEvents s.uartIrq v } ∧
    v = lineFormula (UartRegs.reset s.cfg).c2 s.rxbuf.length s.cfg.rxwm ∧
    (s.cfg.rvUartC2 = 0 → v = false)

/-- 46_host_events.md R294: MACHINE_RESET resets the four devices, empties the receive buffer and clears the pending request; history and
fault survive. -/
def Obligations.MachineResetRestoresEveryDevice : Prop :=
  ∀ s : State, ∃ v : Bool,
    exec .machineReset s = .next { s with
      syst := .reset s.cfg, wdog := .reset s.cfg, uart := .reset s.cfg, ics := .reset s.cfg
      tS := ⟨0, s.cfg.systLimit0⟩, tW := ⟨0, s.cfg.wdogLimit0⟩
      txq := [], rxbuf := [], resetPending := false
      uartIrq := v, hist := s.hist ++ lineEvents s.uartIrq v } ∧
    v = lineFormula (UartRegs.reset s.cfg).c2 0 s.cfg.rxwm ∧
    (s.cfg.rvUartC2 = 0 → v = false)

/-- 46_host_events.md R295: an arriving byte is appended to the receive buffer; the line follows only under `P_RXPUSH_RECOMPUTE`. -/
def Obligations.ArrivingByteIsAppended : Prop :=
  ∀ (s : State) (b : Byte),
    (s.cfg.rxpushRecompute = false → exec (.rxpush b) s = .next { s with rxbuf := s.rxbuf ++ [b] }) ∧
    (s.cfg.rxpushRecompute = true → exec (.rxpush b) s = .next { s with
      rxbuf := s.rxbuf ++ [b]
      uartIrq := lineFormula s.uart.c2 (s.rxbuf.length + 1) s.cfg.rxwm
      hist := s.hist ++ lineEvents s.uartIrq (lineFormula s.uart.c2 (s.rxbuf.length + 1) s.cfg.rxwm) })

/-- 70_reset_and_hazards.md R331, under the default reset values of 10_state.md R47 as premise: what a read of every register returns
after MACHINE_RESET. -/
def Obligations.ReadsAfterMachineReset : Prop :=
  ∀ s : State, DefaultResetValues s.cfg → ∃ t, exec .machineReset s = .next t ∧
    Reads .rd32SystCsr t (.dword 0) ∧ Reads .rd32SystRvr t (.dword 0) ∧
    (s.cfg.currentRead = .stored → Reads .rd32SystCvr t (.dword 0)) ∧
    (s.cfg.currentRead = .live → Reads .rd32SystCvr t (.dword (BitVec.ofNat 32 (s.cfg.systLimit0 % 2 ^ 24)))) ∧
    Reads .rd32SystCalib t (.dword s.cfg.systCalib) ∧
    Reads .rd8WdogCs1 t (.byte 0x80) ∧ Reads .rd8WdogCs2 t (.byte 0x01) ∧
    Reads .rd8WdogCnth t (.byte 0) ∧ Reads .rd8WdogCntl t (.byte 0) ∧
    Reads .rd8WdogTovalh t (.byte 0) ∧ Reads .rd8WdogTovall t (.byte 0x04) ∧
    Reads .rd8WdogWinh t (.byte 0) ∧ Reads .rd8WdogWinl t (.byte 0) ∧
    Reads .rd8UartBdh t (.byte 0) ∧ Reads .rd8UartBdl t (.byte 0x04) ∧ Reads .rd8UartC1 t (.byte 0) ∧
    Reads .rd8UartC2 t (.byte 0) ∧ (1 ≤ s.cfg.rxwm → Reads .rd8UartS1 t (.byte 0xC0)) ∧
    Reads .rd8UartS2 t (.byte 0) ∧ Reads .rd8UartC3 t (.byte 0) ∧ Reads .rd8UartD t (.byte 0) ∧
    Reads .rd8IcsC1 t (.byte 0x04) ∧ Reads .rd8IcsC2 t (.byte 0x20) ∧ Reads .rd8IcsC3 t (.byte s.cfg.rvIcsC3) ∧
    Reads .rd8IcsC4 t (.byte 0) ∧ Reads .rd8IcsS t (.byte 0x10) ∧ icsMode t = .fei
end

