-- ==== Sys2Proof/Laws/Decode.lean ====
section
/-! SUPPORT. What the decoder of 30_encoding.md R82 answers on the encoder's descriptors (R78), once per format, and what a
descriptor it accepts must be. -/

namespace Sys2Proof

/-- R82 on an access descriptor of a byte-native device: legal iff it lies within the size. -/
theorem decodeDesc_accDesc (dev : Device) (dir : Nat) (hd : dir < 2) (w : Width) (off : BitVec 8) (hs : dev ≠ .syst)
    (h : wideLegal dev w off = true) : decodeDesc (accDesc dev dir w off) = .ok (.access dev (dir == 1) w off) := by
  have : dir = 0 ∨ dir = 1 := by omega
  revert off
  rcases this with rfl | rfl <;> cases dev <;> cases w <;> first | exact absurd rfl hs | decide

/-- R82 on a 32-bit access descriptor of SYST. -/
theorem decodeDesc_syst (dir : Nat) (hd : dir < 2) (off : BitVec 8) (h : off = 0 ∨ off = 4 ∨ off = 8 ∨ off = 0xC) :
    decodeDesc (accDesc .syst dir .dword off) = .ok (.access .syst (dir == 1) .dword off) := by
  have : dir = 0 ∨ dir = 1 := by omega
  rcases this with rfl | rfl <;> rcases h with rfl | rfl | rfl | rfl <;> decide

/-- R82 on a received byte's descriptor. -/
theorem decodeDesc_rxpush : ∀ b : Byte, decodeDesc (evtDesc 2 2 b) = .ok (.rxPush b) := by
  decide

/-- The decoder answers what the descriptor and the operand give. -/
theorem decode_of_desc {d : BitVec 16} {w : Data} {x : Desc} {i : Instr} (hx : decodeDesc d = .ok x)
    (hi : instrOf x w = some i) : decode ⟨d, w⟩ = .ok i := by
  simp [decode, hx, hi]

/-- What a transaction that decodes is made of. -/
theorem decode_cases {t : Transaction} {i : Instr} (h : decode t = .ok i) :
    ∃ x, decodeDesc t.desc = .ok x ∧ instrOf x t.wdata = some i := by
  unfold decode at h
  split at h
  · cases h
  · split at h <;> cases h
    exact ⟨_, by assumption, by assumption⟩

/-- The descriptor of a decoded one (R78). -/
def Desc.word : Desc → BitVec 16
  | .access dev write w off => accDesc dev write.toNat w off
  | .rxPush b => evtDesc 2 2 b
  | .tick .syst => evtDesc 0 0 0
  | .tick .wdog => evtDesc 1 0 0
  | .reset dev => evtDesc dev.code 1 0
  | .machineReset => evtDesc 7 1 0

/-- 20_memory.md R56 and 30_encoding.md R76 for a decoded descriptor. -/
def Desc.legal : Desc → Prop
  | .access .syst _ w off => w = .dword ∧ (off = 0 ∨ off = 4 ∨ off = 8 ∨ off = 0xC)
  | .access dev _ w off => wideLegal dev w off = true
  | .rxPush _ => True
  | .tick _ => True
  | .reset _ => True
  | .machineReset => True

theorem accDesc_toNat (dev : Device) (b : Bool) (w : Width) : ∀ off : BitVec 8,
    (accDesc dev b.toNat w off).toNat = dev.code * 2048 + b.toNat * 1024 + w.code * 256 + off.toNat := by
  cases dev <;> cases b <;> cases w <;> decide

theorem rxpushDesc_toNat : ∀ arg : Byte, (evtDesc 2 2 arg).toNat = 16384 + 2 * 2048 + 2 * 256 + arg.toNat := by
  decide

theorem desc_toNat (d : BitVec 16) : d.toNat = descField d 14 2 * 16384 + descField d 11 3 * 2048 +
    descField d 10 1 * 1024 + descField d 8 2 * 256 + descField d 0 8 := by
  have := d.isLt
  simp only [descField, Nat.shiftRight_eq_div_pow]; omega

theorem deviceOf_code {n : Nat} {dev : Device} (h : deviceOf n = some dev) : dev.code = n := by
  unfold deviceOf at h; split at h <;> cases h <;> rfl
theorem widthOf_code {n : Nat} {w : Width} (h : widthOf n = some w) : w.code = n := by
  unfold widthOf at h; split at h <;> cases h <;> rfl

theorem descField_lt (d : BitVec 16) (lo len : Nat) : descField d lo len < 2 ^ len :=
  Nat.mod_lt _ (Nat.two_pow_pos len)

theorem decodeAccess_sound {dev dir w off : Nat} (hdir : dir < 2) (hoff : off < 256) {x : Desc}
    (h : decodeAccess dev dir w off = .ok x) :
    x.word.toNat = dev * 2048 + dir * 1024 + w * 256 + off ∧ x.legal := by
  unfold decodeAccess at h
  have ho : (BitVec.ofNat 8 off).toNat = off := by simp; omega
  have hb : (dir == 1).toNat = dir := by
    have : dir = 0 ∨ dir = 1 := by omega
    rcases this with rfl | rfl <;> rfl
  split at h
  · rename_i dv wd hd hw
    have e : (Desc.access dv (dir == 1) wd (BitVec.ofNat 8 off)).word.toNat = dev * 2048 + dir * 1024 + w * 256 + off := by
      rw [Desc.word, accDesc_toNat, ho, hb, deviceOf_code hd, widthOf_code hw]
    split at h
    · subst dv
      split at h
      · split at h <;> cases h
      · rename_i hn
        split at h <;> cases h
        refine ⟨e, ?_⟩
        simp only [ne_eq, not_or, not_not] at hn
        have : off = 0 ∨ off = 4 ∨ off = 8 ∨ off = 0xC := by omega
        refine ⟨hn.1, ?_⟩
        rcases this with rfl | rfl | rfl | rfl <;> decide
    · split at h <;> cases h
      rename_i hs hsz
      refine ⟨e, ?_⟩
      have : wideLegal dv wd (BitVec.ofNat 8 off) = true := by
        simp only [wideLegal, ho, decide_eq_true_eq]; omega
      cases dv <;> first | exact absurd rfl hs | exact this
  · cases h

theorem decodeEvent_sound {dev ev arg : Nat} (harg : arg < 256) {x : Desc} (h : decodeEvent dev ev arg = .ok x) :
    x.word.toNat = 16384 + dev * 2048 + ev * 256 + arg ∧ x.legal := by
  unfold decodeEvent at h
  split at h
  · rename_i he
    cases h
    have ho : (BitVec.ofNat 8 arg).toNat = arg := by simp; omega
    exact ⟨by rw [Desc.word, rxpushDesc_toNat, ho, he.1, he.2], trivial⟩
  · split at h
    · cases h
    · rename_i ha
      have : arg = 0 := by omega
      subst this
      split at h <;> cases h <;> exact ⟨by decide, trivial⟩

/-- What a decoded descriptor says of its word: the encoder's descriptor is the word itself, and the access is legal. -/
theorem decodeDesc_sound {d : BitVec 16} {x : Desc} (h : decodeDesc d = .ok x) : x.word = d ∧ x.legal := by
  have hd := desc_toNat d
  have h1 : descField d 10 1 < 2 := descField_lt d 10 1
  have h0 : descField d 0 8 < 256 := descField_lt d 0 8
  have h8 : descField d 8 3 = descField d 10 1 * 4 + descField d 8 2 := by
    simp only [descField, Nat.shiftRight_eq_div_pow]; omega
  unfold decodeDesc at h
  split at h
  · rename_i hk
    obtain ⟨e, l⟩ := decodeAccess_sound h1 h0 h
    exact ⟨BitVec.eq_of_toNat_eq (by omega), l⟩
  · rename_i hk
    obtain ⟨e, l⟩ := decodeEvent_sound h0 h
    exact ⟨BitVec.eq_of_toNat_eq (by omega), l⟩
  · cases h

end Sys2Proof
end

