-- ==== Sys2Proof/Laws/State.lean ====
section
/-! SUPPORT. One lemma per field per named update of State, so that later proofs unfold no record update, and the laws of the
register storage. -/

namespace Sys2Proof.Machine

@[simp] theorem emit_cfg (es : List Event) (s : State) : (emit es s).cfg = s.cfg := rfl
@[simp] theorem emit_syst (es : List Event) (s : State) : (emit es s).syst = s.syst := rfl
@[simp] theorem emit_wdog (es : List Event) (s : State) : (emit es s).wdog = s.wdog := rfl
@[simp] theorem emit_uart (es : List Event) (s : State) : (emit es s).uart = s.uart := rfl
@[simp] theorem emit_ics (es : List Event) (s : State) : (emit es s).ics = s.ics := rfl
@[simp] theorem emit_tS (es : List Event) (s : State) : (emit es s).tS = s.tS := rfl
@[simp] theorem emit_tW (es : List Event) (s : State) : (emit es s).tW = s.tW := rfl
@[simp] theorem emit_txq (es : List Event) (s : State) : (emit es s).txq = s.txq := rfl
@[simp] theorem emit_uartIrq (es : List Event) (s : State) : (emit es s).uartIrq = s.uartIrq := rfl
@[simp] theorem emit_rxbuf (es : List Event) (s : State) : (emit es s).rxbuf = s.rxbuf := rfl
@[simp] theorem emit_resetPending (es : List Event) (s : State) : (emit es s).resetPending = s.resetPending := rfl
@[simp] theorem emit_hist (es : List Event) (s : State) : (emit es s).hist = s.hist ++ es := rfl
@[simp] theorem emit_fault (es : List Event) (s : State) : (emit es s).fault = s.fault := rfl
@[simp] theorem emit_rdata (es : List Event) (s : State) : (emit es s).rdata = s.rdata := rfl
@[simp] theorem emit_draws (es : List Event) (s : State) : (emit es s).draws = s.draws := rfl
@[simp] theorem emit_pending (es : List Event) (s : State) : (emit es s).pending = s.pending := rfl

@[simp] theorem answer_cfg (d : Data) (s : State) : (answer d s).cfg = s.cfg := rfl
@[simp] theorem answer_syst (d : Data) (s : State) : (answer d s).syst = s.syst := rfl
@[simp] theorem answer_wdog (d : Data) (s : State) : (answer d s).wdog = s.wdog := rfl
@[simp] theorem answer_uart (d : Data) (s : State) : (answer d s).uart = s.uart := rfl
@[simp] theorem answer_ics (d : Data) (s : State) : (answer d s).ics = s.ics := rfl
@[simp] theorem answer_tS (d : Data) (s : State) : (answer d s).tS = s.tS := rfl
@[simp] theorem answer_tW (d : Data) (s : State) : (answer d s).tW = s.tW := rfl
@[simp] theorem answer_txq (d : Data) (s : State) : (answer d s).txq = s.txq := rfl
@[simp] theorem answer_uartIrq (d : Data) (s : State) : (answer d s).uartIrq = s.uartIrq := rfl
@[simp] theorem answer_rxbuf (d : Data) (s : State) : (answer d s).rxbuf = s.rxbuf := rfl
@[simp] theorem answer_resetPending (d : Data) (s : State) : (answer d s).resetPending = s.resetPending := rfl
@[simp] theorem answer_hist (d : Data) (s : State) : (answer d s).hist = s.hist := rfl
@[simp] theorem answer_fault (d : Data) (s : State) : (answer d s).fault = s.fault := rfl
@[simp] theorem answer_rdata (d : Data) (s : State) : (answer d s).rdata = d := rfl
@[simp] theorem answer_draws (d : Data) (s : State) : (answer d s).draws = s.draws := rfl
@[simp] theorem answer_pending (d : Data) (s : State) : (answer d s).pending = s.pending := rfl

@[simp] theorem takeFault_cfg (r : Fault) (s : State) : (takeFault r s).cfg = s.cfg := rfl
@[simp] theorem takeFault_syst (r : Fault) (s : State) : (takeFault r s).syst = s.syst := rfl
@[simp] theorem takeFault_wdog (r : Fault) (s : State) : (takeFault r s).wdog = s.wdog := rfl
@[simp] theorem takeFault_uart (r : Fault) (s : State) : (takeFault r s).uart = s.uart := rfl
@[simp] theorem takeFault_ics (r : Fault) (s : State) : (takeFault r s).ics = s.ics := rfl
@[simp] theorem takeFault_tS (r : Fault) (s : State) : (takeFault r s).tS = s.tS := rfl
@[simp] theorem takeFault_tW (r : Fault) (s : State) : (takeFault r s).tW = s.tW := rfl
@[simp] theorem takeFault_txq (r : Fault) (s : State) : (takeFault r s).txq = s.txq := rfl
@[simp] theorem takeFault_uartIrq (r : Fault) (s : State) : (takeFault r s).uartIrq = s.uartIrq := rfl
@[simp] theorem takeFault_rxbuf (r : Fault) (s : State) : (takeFault r s).rxbuf = s.rxbuf := rfl
@[simp] theorem takeFault_resetPending (r : Fault) (s : State) : (takeFault r s).resetPending = s.resetPending := rfl
@[simp] theorem takeFault_hist (r : Fault) (s : State) : (takeFault r s).hist = s.hist := rfl
@[simp] theorem takeFault_fault (r : Fault) (s : State) : (takeFault r s).fault = some r := rfl
@[simp] theorem takeFault_rdata (r : Fault) (s : State) : (takeFault r s).rdata = s.rdata := rfl
@[simp] theorem takeFault_draws (r : Fault) (s : State) : (takeFault r s).draws = s.draws := rfl
@[simp] theorem takeFault_pending (r : Fault) (s : State) : (takeFault r s).pending = s.pending := rfl

@[simp] theorem offerNext_cfg (t : Transaction) (s : State) : (offerNext t s).cfg = s.cfg := rfl
@[simp] theorem offerNext_syst (t : Transaction) (s : State) : (offerNext t s).syst = s.syst := rfl
@[simp] theorem offerNext_wdog (t : Transaction) (s : State) : (offerNext t s).wdog = s.wdog := rfl
@[simp] theorem offerNext_uart (t : Transaction) (s : State) : (offerNext t s).uart = s.uart := rfl
@[simp] theorem offerNext_ics (t : Transaction) (s : State) : (offerNext t s).ics = s.ics := rfl
@[simp] theorem offerNext_tS (t : Transaction) (s : State) : (offerNext t s).tS = s.tS := rfl
@[simp] theorem offerNext_tW (t : Transaction) (s : State) : (offerNext t s).tW = s.tW := rfl
@[simp] theorem offerNext_txq (t : Transaction) (s : State) : (offerNext t s).txq = s.txq := rfl
@[simp] theorem offerNext_uartIrq (t : Transaction) (s : State) : (offerNext t s).uartIrq = s.uartIrq := rfl
@[simp] theorem offerNext_rxbuf (t : Transaction) (s : State) : (offerNext t s).rxbuf = s.rxbuf := rfl
@[simp] theorem offerNext_resetPending (t : Transaction) (s : State) : (offerNext t s).resetPending = s.resetPending := rfl
@[simp] theorem offerNext_hist (t : Transaction) (s : State) : (offerNext t s).hist = s.hist := rfl
@[simp] theorem offerNext_fault (t : Transaction) (s : State) : (offerNext t s).fault = s.fault := rfl
@[simp] theorem offerNext_rdata (t : Transaction) (s : State) : (offerNext t s).rdata = s.rdata := rfl
@[simp] theorem offerNext_draws (t : Transaction) (s : State) : (offerNext t s).draws = s.draws := rfl
@[simp] theorem offerNext_pending (t : Transaction) (s : State) : (offerNext t s).pending = t :: s.pending := rfl

@[simp] theorem setTimer_cfg (t : TimerId) (x : Timer) (s : State) : (setTimer t x s).cfg = s.cfg := by cases t <;> rfl
@[simp] theorem setTimer_syst (t : TimerId) (x : Timer) (s : State) : (setTimer t x s).syst = s.syst := by cases t <;> rfl
@[simp] theorem setTimer_wdog (t : TimerId) (x : Timer) (s : State) : (setTimer t x s).wdog = s.wdog := by cases t <;> rfl
@[simp] theorem setTimer_uart (t : TimerId) (x : Timer) (s : State) : (setTimer t x s).uart = s.uart := by cases t <;> rfl
@[simp] theorem setTimer_ics (t : TimerId) (x : Timer) (s : State) : (setTimer t x s).ics = s.ics := by cases t <;> rfl
@[simp] theorem setTimer_txq (t : TimerId) (x : Timer) (s : State) : (setTimer t x s).txq = s.txq := by cases t <;> rfl
@[simp] theorem setTimer_uartIrq (t : TimerId) (x : Timer) (s : State) : (setTimer t x s).uartIrq = s.uartIrq := by cases t <;> rfl
@[simp] theorem setTimer_rxbuf (t : TimerId) (x : Timer) (s : State) : (setTimer t x s).rxbuf = s.rxbuf := by cases t <;> rfl
@[simp] theorem setTimer_resetPending (t : TimerId) (x : Timer) (s : State) : (setTimer t x s).resetPending = s.resetPending := by cases t <;> rfl
@[simp] theorem setTimer_hist (t : TimerId) (x : Timer) (s : State) : (setTimer t x s).hist = s.hist := by cases t <;> rfl
@[simp] theorem setTimer_fault (t : TimerId) (x : Timer) (s : State) : (setTimer t x s).fault = s.fault := by cases t <;> rfl
@[simp] theorem setTimer_rdata (t : TimerId) (x : Timer) (s : State) : (setTimer t x s).rdata = s.rdata := by cases t <;> rfl
@[simp] theorem setTimer_draws (t : TimerId) (x : Timer) (s : State) : (setTimer t x s).draws = s.draws := by cases t <;> rfl
@[simp] theorem setTimer_pending (t : TimerId) (x : Timer) (s : State) : (setTimer t x s).pending = s.pending := by cases t <;> rfl

@[simp] theorem put32_cfg (r : Reg32) (v : DWord) (s : State) : (put32 r v s).cfg = s.cfg := by cases r <;> rfl
@[simp] theorem put32_wdog (r : Reg32) (v : DWord) (s : State) : (put32 r v s).wdog = s.wdog := by cases r <;> rfl
@[simp] theorem put32_uart (r : Reg32) (v : DWord) (s : State) : (put32 r v s).uart = s.uart := by cases r <;> rfl
@[simp] theorem put32_ics (r : Reg32) (v : DWord) (s : State) : (put32 r v s).ics = s.ics := by cases r <;> rfl
@[simp] theorem put32_tS (r : Reg32) (v : DWord) (s : State) : (put32 r v s).tS = s.tS := by cases r <;> rfl
@[simp] theorem put32_tW (r : Reg32) (v : DWord) (s : State) : (put32 r v s).tW = s.tW := by cases r <;> rfl
@[simp] theorem put32_txq (r : Reg32) (v : DWord) (s : State) : (put32 r v s).txq = s.txq := by cases r <;> rfl
@[simp] theorem put32_uartIrq (r : Reg32) (v : DWord) (s : State) : (put32 r v s).uartIrq = s.uartIrq := by cases r <;> rfl
@[simp] theorem put32_rxbuf (r : Reg32) (v : DWord) (s : State) : (put32 r v s).rxbuf = s.rxbuf := by cases r <;> rfl
@[simp] theorem put32_resetPending (r : Reg32) (v : DWord) (s : State) : (put32 r v s).resetPending = s.resetPending := by cases r <;> rfl
@[simp] theorem put32_hist (r : Reg32) (v : DWord) (s : State) : (put32 r v s).hist = s.hist := by cases r <;> rfl
@[simp] theorem put32_fault (r : Reg32) (v : DWord) (s : State) : (put32 r v s).fault = s.fault := by cases r <;> rfl
@[simp] theorem put32_rdata (r : Reg32) (v : DWord) (s : State) : (put32 r v s).rdata = s.rdata := by cases r <;> rfl
@[simp] theorem put32_draws (r : Reg32) (v : DWord) (s : State) : (put32 r v s).draws = s.draws := by cases r <;> rfl
@[simp] theorem put32_pending (r : Reg32) (v : DWord) (s : State) : (put32 r v s).pending = s.pending := by cases r <;> rfl

@[simp] theorem put8_cfg (r : Reg8) (v : Byte) (s : State) : (put8 r v s).cfg = s.cfg := by cases r <;> rfl
@[simp] theorem put8_syst (r : Reg8) (v : Byte) (s : State) : (put8 r v s).syst = s.syst := by cases r <;> rfl
@[simp] theorem put8_tS (r : Reg8) (v : Byte) (s : State) : (put8 r v s).tS = s.tS := by cases r <;> rfl
@[simp] theorem put8_tW (r : Reg8) (v : Byte) (s : State) : (put8 r v s).tW = s.tW := by cases r <;> rfl
@[simp] theorem put8_txq (r : Reg8) (v : Byte) (s : State) : (put8 r v s).txq = s.txq := by cases r <;> rfl
@[simp] theorem put8_uartIrq (r : Reg8) (v : Byte) (s : State) : (put8 r v s).uartIrq = s.uartIrq := by cases r <;> rfl
@[simp] theorem put8_rxbuf (r : Reg8) (v : Byte) (s : State) : (put8 r v s).rxbuf = s.rxbuf := by cases r <;> rfl
@[simp] theorem put8_resetPending (r : Reg8) (v : Byte) (s : State) : (put8 r v s).resetPending = s.resetPending := by cases r <;> rfl
@[simp] theorem put8_hist (r : Reg8) (v : Byte) (s : State) : (put8 r v s).hist = s.hist := by cases r <;> rfl
@[simp] theorem put8_fault (r : Reg8) (v : Byte) (s : State) : (put8 r v s).fault = s.fault := by cases r <;> rfl
@[simp] theorem put8_rdata (r : Reg8) (v : Byte) (s : State) : (put8 r v s).rdata = s.rdata := by cases r <;> rfl
@[simp] theorem put8_draws (r : Reg8) (v : Byte) (s : State) : (put8 r v s).draws = s.draws := by cases r <;> rfl
@[simp] theorem put8_pending (r : Reg8) (v : Byte) (s : State) : (put8 r v s).pending = s.pending := by cases r <;> rfl

@[simp] theorem setTimer_syst_tS (x : Timer) (s : State) : (setTimer .syst x s).tS = x := rfl
@[simp] theorem setTimer_syst_tW (x : Timer) (s : State) : (setTimer .syst x s).tW = s.tW := rfl
@[simp] theorem setTimer_wdog_tS (x : Timer) (s : State) : (setTimer .wdog x s).tS = s.tS := rfl
@[simp] theorem setTimer_wdog_tW (x : Timer) (s : State) : (setTimer .wdog x s).tW = x := rfl
@[simp] theorem timer_setTimer (t : TimerId) (x : Timer) (s : State) : timer t (setTimer t x s) = x := by cases t <;> rfl

/-- The registers with storage of their own; the others are computed (10_state.md R26, R34, R42). -/
def Reg32.stores : Reg32 → Bool
  | .calib => false
  | .csr => true
  | .rvr => true
  | .cvr => true

/-- The byte registers with storage of their own. -/
def Reg8.stores (r : Reg8) : Bool :=
  r != .uartS1 && r != .icsS

theorem get32_put32 (r : Reg32) (h : r.stores = true) (v : DWord) (s : State) : get32 r (put32 r v s) = v := by
  cases r <;> first | rfl | exact absurd h (by decide)

theorem get8_put8 (r : Reg8) (h : r.stores = true) (v : Byte) (s : State) : get8 r (put8 r v s) = v := by
  cases r <;> first | rfl | exact absurd h (by decide)

theorem get32_put32_ne {r q : Reg32} (h : r ≠ q) (v : DWord) (s : State) : get32 r (put32 q v s) = get32 r s := by
  cases r <;> cases q <;> first | rfl | exact absurd rfl h

theorem get8_put8_ne {r q : Reg8} (h : r ≠ q) (v : Byte) (s : State) : get8 r (put8 q v s) = get8 r s := by
  cases q <;> cases r <;> first | rfl | exact absurd rfl h

@[simp] theorem put32_put32 (r : Reg32) (v x : DWord) (s : State) : put32 r v (put32 r x s) = put32 r v s := by
  cases r <;> rfl

@[simp] theorem put8_put8 (r : Reg8) (v x : Byte) (s : State) : put8 r v (put8 r x s) = put8 r v s := by
  cases r <;> rfl

@[simp] theorem put32_get32 (r : Reg32) (s : State) : put32 r (get32 r s) s = s := by cases r <;> rfl
@[simp] theorem put8_get8 (r : Reg8) (s : State) : put8 r (get8 r s) s = s := by cases r <;> rfl
@[simp] theorem get32_emit (r : Reg32) (es : List Event) (s : State) : get32 r (emit es s) = get32 r s := by cases r <;> rfl
@[simp] theorem get8_emit (r : Reg8) (es : List Event) (s : State) : get8 r (emit es s) = get8 r s := by cases r <;> rfl
theorem put32_emit (r : Reg32) (v : DWord) (es : List Event) (s : State) :
    put32 r v (emit es s) = emit es (put32 r v s) := by cases r <;> rfl
theorem put8_emit (r : Reg8) (v : Byte) (es : List Event) (s : State) :
    put8 r v (emit es s) = emit es (put8 r v s) := by cases r <;> rfl
theorem emit_emit (es fs : List Event) (s : State) : emit fs (emit es s) = emit (es ++ fs) s := by
  simp [emit, List.append_assoc]
@[simp] theorem emit_nil (s : State) : emit [] s = s := by simp [emit]
@[simp] theorem answer_answer (d e : Data) (s : State) : answer d (answer e s) = answer d s := rfl

end Sys2Proof.Machine
end

