-- ==== Sys2Proof/Laws/Engine.lean ====
section
/-! SUPPORT. What each engine operation can do, once: line recomputation, flush, the two data accesses, the tick, the draw and
the resets, and the assembly of wide operands. -/

namespace Sys2Proof.Machine

/-- Two states equal in every field are equal; the fields an operation keeps are closed by `rfl`. -/
theorem state_ext {s t : State} (h0 : s.cfg = t.cfg) (h1 : s.syst = t.syst) (h2 : s.wdog = t.wdog) (h3 : s.uart = t.uart)
    (h4 : s.ics = t.ics) (h5 : s.tS = t.tS) (h6 : s.tW = t.tW) (h7 : s.txq = t.txq) (h8 : s.uartIrq = t.uartIrq)
    (h9 : s.rxbuf = t.rxbuf) (h10 : s.resetPending = t.resetPending) (h11 : s.hist = t.hist) (h12 : s.fault = t.fault)
    (h13 : s.rdata = t.rdata) (h14 : s.draws = t.draws) (h15 : s.pending = t.pending) : s = t := by
  cases s; cases t; simp only at *; subst_vars; rfl

/-- `Recompute()` (44_uart.md R226): the line takes the formula's value, and the history records it when it changes. -/
theorem recompute_eq (s : State) : recompute s = { s with
    uartIrq := irqFormula s
    hist := s.hist ++ if irqFormula s = s.uartIrq then [] else [.irqLevel (irqFormula s)] } := by
  unfold recompute
  split
  · rename_i h
    apply state_ext <;> first | rfl | exact h.symm | simp
  · apply state_ext <;> rfl

/-- `Flush()` (R237). -/
theorem flush_eq (s : State) : flush s = { s with
    txq := if s.cfg.txwm ≤ s.txq.length then [] else s.txq
    hist := s.hist ++ if s.cfg.txwm ≤ s.txq.length then s.txq.map .txByte else [] } := by
  unfold flush
  split
  · apply state_ext <;> rfl
  · apply state_ext <;> first | rfl | simp

/-- `WriteData(b)` (R236): the warning alone, or enqueue, flush and recompute. -/
theorem writeData_cases (b : Byte) (s : State) :
    (txEnabled s = false ∧ writeData b s = emit [.log .txDisabled] s) ∨
    (txEnabled s = true ∧ writeData b s = recompute (flush { s with txq := s.txq ++ [b] })) := by
  unfold writeData
  split
  · exact .inl ⟨by assumption, rfl⟩
  · rename_i h
    exact .inr ⟨by simpa using h, rfl⟩

/-- `ReadData()` (R239): the two warnings with 0, or the head of the buffer. -/
theorem readData_cases (s : State) :
    (rxEnabled s = false ∧ readData s = (0, emit [.log .rxDisabled] s)) ∨
    (rxEnabled s = true ∧ s.rxbuf = [] ∧ readData s = (0, recompute (emit [.log .rxEmpty] s))) ∨
    (∃ b rest, rxEnabled s = true ∧ s.rxbuf = b :: rest ∧ readData s = (b, recompute { s with rxbuf := rest })) := by
  unfold readData
  split
  · exact .inl ⟨by assumption, rfl⟩
  · rename_i hn
    have h : rxEnabled s = true := by simpa using hn
    cases hb : s.rxbuf with
    | nil => exact .inr (.inl ⟨h, rfl, rfl⟩)
    | cons b rest => exact .inr (.inr ⟨b, rest, h, rfl, rfl⟩)

/-- `Expire(t)` (41_timer_core.md R135). -/
theorem expire_eq (t : TimerId) (s : State) : expire t s =
    setTimer t { timer t s with count := 0 } { emit ((if irqEnabled t s then [.irqPulse t] else []) ++ [.resetRequest t]) s
      with resetPending := true } := by
  unfold expire
  cases t <;> cases irqEnabled _ s <;> simp [setTimer, timer, emit]

/-- `Tick(t)` (R134): nothing, the fault, one more count, or the expiry. -/
theorem tick_cases (t : TimerId) (s : State) :
    (enabled t s = false ∧ tick t s = s) ∨
    (enabled t s = true ∧ (timer t s).limit = 0 ∧ tick t s = takeFault .unmodelledLimitZero s) ∨
    (enabled t s = true ∧ (timer t s).limit ≠ 0 ∧ (timer t s).count + 1 < (timer t s).limit ∧
      tick t s = setTimer t { timer t s with count := (timer t s).count + 1 } s) ∨
    (enabled t s = true ∧ (timer t s).limit ≠ 0 ∧ (timer t s).limit ≤ (timer t s).count + 1 ∧
      tick t s = setTimer t { timer t s with count := 0 }
        { emit ((if irqEnabled t s then [.irqPulse t] else []) ++ [.resetRequest t]) s with resetPending := true }) := by
  unfold tick
  split
  · exact .inl ⟨by assumption, rfl⟩
  rename_i hn
  have he : enabled t s = true := by simpa using hn
  split
  · exact .inr (.inl ⟨he, by assumption, rfl⟩)
  rename_i hz
  simp only [timer_setTimer]
  split
  · refine .inr (.inr (.inr ⟨he, hz, by assumption, ?_⟩))
    rw [expire_eq]
    cases t <;> rfl
  · exact .inr (.inr (.inl ⟨he, hz, by omega, rfl⟩))

/-- A draw (42_systick.md R155, 43_watchdog.md R185): one of the two values; only the draw counter can move. -/
theorem drawCurrent_cases {w : Nat} (stored live : BitVec w) (s : State) :
    (s.cfg.currentRead = .stored ∧ drawCurrent stored live s = (stored, s)) ∨
    (s.cfg.currentRead = .live ∧ drawCurrent stored live s = (live, s)) ∨
    (s.cfg.currentRead = .either ∧ (drawCurrent stored live s = (stored, { s with draws := s.draws + 1 }) ∨
      drawCurrent stored live s = (live, { s with draws := s.draws + 1 }))) := by
  unfold drawCurrent
  cases h : s.cfg.currentRead with
  | stored => exact .inl ⟨rfl, rfl⟩
  | live => exact .inr (.inl ⟨rfl, rfl⟩)
  | either => cases Config.freeChoice s.draws <;> simp

/-! The register-file reset (40_regfile.md R94) changes stored registers only. -/

@[simp] theorem resetRegs8_cfg (rs : List Reg8) (s : State) : (resetRegs8 s rs).cfg = s.cfg := by
  induction rs generalizing s with
  | nil => rfl
  | cons r rs ih => rw [resetRegs8, ih, put8_cfg]

@[simp] theorem resetRegs8_syst (rs : List Reg8) (s : State) : (resetRegs8 s rs).syst = s.syst := by
  induction rs generalizing s with
  | nil => rfl
  | cons r rs ih => rw [resetRegs8, ih, put8_syst]

@[simp] theorem resetRegs8_tS (rs : List Reg8) (s : State) : (resetRegs8 s rs).tS = s.tS := by
  induction rs generalizing s with
  | nil => rfl
  | cons r rs ih => rw [resetRegs8, ih, put8_tS]

@[simp] theorem resetRegs8_tW (rs : List Reg8) (s : State) : (resetRegs8 s rs).tW = s.tW := by
  induction rs generalizing s with
  | nil => rfl
  | cons r rs ih => rw [resetRegs8, ih, put8_tW]

@[simp] theorem resetRegs8_txq (rs : List Reg8) (s : State) : (resetRegs8 s rs).txq = s.txq := by
  induction rs generalizing s with
  | nil => rfl
  | cons r rs ih => rw [resetRegs8, ih, put8_txq]

@[simp] theorem resetRegs8_uartIrq (rs : List Reg8) (s : State) : (resetRegs8 s rs).uartIrq = s.uartIrq := by
  induction rs generalizing s with
  | nil => rfl
  | cons r rs ih => rw [resetRegs8, ih, put8_uartIrq]

@[simp] theorem resetRegs8_rxbuf (rs : List Reg8) (s : State) : (resetRegs8 s rs).rxbuf = s.rxbuf := by
  induction rs generalizing s with
  | nil => rfl
  | cons r rs ih => rw [resetRegs8, ih, put8_rxbuf]

@[simp] theorem resetRegs8_resetPending (rs : List Reg8) (s : State) : (resetRegs8 s rs).resetPending = s.resetPending := by
  induction rs generalizing s with
  | nil => rfl
  | cons r rs ih => rw [resetRegs8, ih, put8_resetPending]

@[simp] theorem resetRegs8_hist (rs : List Reg8) (s : State) : (resetRegs8 s rs).hist = s.hist := by
  induction rs generalizing s with
  | nil => rfl
  | cons r rs ih => rw [resetRegs8, ih, put8_hist]

@[simp] theorem resetRegs8_fault (rs : List Reg8) (s : State) : (resetRegs8 s rs).fault = s.fault := by
  induction rs generalizing s with
  | nil => rfl
  | cons r rs ih => rw [resetRegs8, ih, put8_fault]

@[simp] theorem resetRegs8_rdata (rs : List Reg8) (s : State) : (resetRegs8 s rs).rdata = s.rdata := by
  induction rs generalizing s with
  | nil => rfl
  | cons r rs ih => rw [resetRegs8, ih, put8_rdata]

@[simp] theorem resetRegs8_draws (rs : List Reg8) (s : State) : (resetRegs8 s rs).draws = s.draws := by
  induction rs generalizing s with
  | nil => rfl
  | cons r rs ih => rw [resetRegs8, ih, put8_draws]

@[simp] theorem resetRegs8_pending (rs : List Reg8) (s : State) : (resetRegs8 s rs).pending = s.pending := by
  induction rs generalizing s with
  | nil => rfl
  | cons r rs ih => rw [resetRegs8, ih, put8_pending]

/-- The resets of SYST, WDOG and ICS (46_host_events.md R290, R291, R293) and the UART's before its recomputation (R292). -/
theorem resetSyst_eq (s : State) : resetSyst s = { s with syst := .reset s.cfg, tS := ⟨0, s.cfg.systLimit0⟩ } := by
  simp only [resetSyst, resetRegs32, put32, setTimer, SystRegs.reset]
theorem resetWdog_eq (s : State) : resetWdog s = { s with wdog := .reset s.cfg, tW := ⟨0, s.cfg.wdogLimit0⟩ } := by
  simp only [resetWdog, deviceRegs8, resetRegs8, put8, setTimer, WdogRegs.reset]
theorem resetIcs_eq (s : State) : resetIcs s = { s with ics := .reset s.cfg } := by
  simp only [resetIcs, deviceRegs8, resetRegs8, put8, IcsRegs.reset]
theorem resetUart_eq (s : State) : resetUart s = recompute { s with uart := .reset s.cfg, txq := [] } := by
  simp only [resetUart, deviceRegs8, resetRegs8, put8, UartRegs.reset]

/-- `MachineReset()` (R294): the recomputation sees the emptied receive buffer and the reset C2. -/
theorem machineReset_eq (s : State) : machineReset s = recompute { s with
    syst := .reset s.cfg, wdog := .reset s.cfg, uart := .reset s.cfg, ics := .reset s.cfg
    tS := ⟨0, s.cfg.systLimit0⟩, tW := ⟨0, s.cfg.wdogLimit0⟩, txq := [], rxbuf := [], resetPending := false } := by
  simp only [machineReset, resetSyst_eq, resetWdog_eq, resetIcs_eq, resetUart_eq, recompute_eq]
  rfl

/-- A wide access of a byte-native device covers existing registers exactly when it is well-formed (20_memory.md R56). -/
theorem regsAt_isSome (dev : Device) (hd : dev ≠ .syst) (w : Width) : ∀ off : BitVec 8,
    (regsAt dev off.toNat w.bytes).isSome = wideLegal dev w off := by
  cases dev <;> cases w <;> first | exact absurd rfl hd | decide

/-- The bytes of a wide operand, most significant first (20_memory.md R54). -/
theorem splitBytes_word (v : BitVec 16) : splitBytes 2 v = [v.extractLsb' 8 8, v.extractLsb' 0 8] := by
  simp only [splitBytes, List.cons.injEq, and_true]
  constructor <;> (ext i hi; simp)

theorem splitBytes_dword (v : DWord) : splitBytes 4 v =
    [v.extractLsb' 24 8, v.extractLsb' 16 8, v.extractLsb' 8 8, v.extractLsb' 0 8] := by
  simp only [splitBytes, List.cons.injEq, and_true]
  refine ⟨?_, ?_, ?_, ?_⟩ <;> (ext i hi; simp)

/-- The result of a wide read from the bytes read (40_regfile.md R103). -/
theorem joinBytes_word (a b : Byte) : joinBytes 16 [a, b] = a ++ b := by
  simp only [joinBytes, joinBytesFrom]
  apply BitVec.eq_of_getLsbD_eq
  intro i hi
  simp only [BitVec.getLsbD_append, BitVec.getLsbD_or, BitVec.getLsbD_shiftLeft, BitVec.getLsbD_setWidth]
  have e : decide (i - 8 < 16) = true := by simpa using (by omega : i - 8 < 16)
  by_cases h : i < 8
  · simp [h, hi]
  · simp only [h, hi, e, BitVec.getLsbD_of_ge b i (by omega)]; simp

theorem joinBytes_dword (a b c d : Byte) : joinBytes 32 [a, b, c, d] = a ++ b ++ c ++ d := by
  simp only [joinBytes, joinBytesFrom]
  apply BitVec.eq_of_getLsbD_eq
  intro i hi
  simp only [BitVec.getLsbD_append, BitVec.getLsbD_or, BitVec.getLsbD_shiftLeft, BitVec.getLsbD_setWidth]
  have e1 : decide (i - 8 < 32) = true := by simpa using (by omega : i - 8 < 32)
  have e2 : decide (i - 8 - 8 < 32) = true := by simpa using (by omega : i - 8 - 8 < 32)
  have e3 : decide (i - 8 - 8 - 8 < 32) = true := by simpa using (by omega : i - 8 - 8 - 8 < 32)
  by_cases h : i < 8
  · simp [h, hi]
  by_cases h2 : i - 8 < 8
  · simp only [h, hi, h2, e1, e2, e3, BitVec.getLsbD_of_ge d i (by omega)]; simp
  by_cases h3 : i - 8 - 8 < 8
  · simp only [h, hi, h2, e1, e2, e3, h3, BitVec.getLsbD_of_ge d i (by omega), BitVec.getLsbD_of_ge c (i - 8) (by omega)]; simp
  · simp only [h, hi, h2, e1, e2, e3, h3, BitVec.getLsbD_of_ge d i (by omega), BitVec.getLsbD_of_ge c (i - 8) (by omega),
      BitVec.getLsbD_of_ge b (i - 8 - 8) (by omega)]; simp

end Sys2Proof.Machine
end

