-- ==== Sys2Proof/Laws/RegFile.lean ====
section
/-! SUPPORT. What a register write and a register read do, once: the closed form of the field loops of 40_regfile.md R92 and
R93 over a whole register, and the frame of every engine operation they call. -/

namespace Sys2Proof.Machine

/-- Storage as a pair of accessors that behave as one cell. -/
structure Cell {w : Nat} (get : State → BitVec w) (put : BitVec w → State → State) : Prop where
  get_put : ∀ v s, get (put v s) = v
  put_put : ∀ v x s, put v (put x s) = put v s
  put_get : ∀ s, put (get s) s = s
  get_emit : ∀ es s, get (emit es s) = get s
  put_emit : ∀ v es s, put v (emit es s) = emit es (put v s)
  put_cfg : ∀ v s, (put v s).cfg = s.cfg

theorem cell32 (r : Reg32) (h : r.stores = true) : Cell (get32 r) (put32 r) :=
  ⟨get32_put32 r h, put32_put32 r, put32_get32 r, get32_emit r, put32_emit r, put32_cfg r⟩

theorem cell8 (r : Reg8) (h : r.stores = true) : Cell (get8 r) (put8 r) :=
  ⟨get8_put8 r h, put8_put8 r, put8_get8 r, get8_emit r, put8_emit r, put8_cfg r⟩

/-- A field whose write has no effect beyond its own bits. -/
def Field.quiet (f : Field) : Bool :=
  f.effect == none || f.effect == some .enable

theorem blend_blend {w : Nat} (x v a b : BitVec w) :
    (((x &&& ~~~a) ||| (v &&& a)) &&& ~~~b) ||| (v &&& b) = (x &&& ~~~(a ||| b)) ||| (v &&& (a ||| b)) := by
  ext i hi
  simp only [BitVec.getElem_or, BitVec.getElem_and, BitVec.getElem_not]
  cases x[i] <;> cases v[i] <;> cases a[i] <;> cases b[i] <;> rfl

/-- The closed form of R92's loop over fields without a further effect: the writable bits come from `v`, the others stay, and
each tagged field records one warning. -/
theorem writeFields_quiet {w : Nat} {get : State → BitVec w} {put : BitVec w → State → State} (c : Cell get put)
    (v : BitVec w) (fs : List Field) (h : fs.all Field.quiet = true) (s : State) :
    writeFields get put v fs s =
      emit (List.replicate (taggedCount s.cfg fs) (.log .taggedWrite))
        (put ((get s &&& ~~~storedMask w s.cfg fs) ||| (v &&& storedMask w s.cfg fs)) s) := by
  induction fs generalizing s with
  | nil =>
    have hz : (get s &&& ~~~(0 : BitVec w)) ||| (v &&& 0) = get s := by
      ext i hi
      simp
    simp only [writeFields, storedMask, taggedCount, List.replicate_zero, emit_nil, hz, c.put_get]
  | cons f fs ih =>
    simp only [List.all_cons, Bool.and_eq_true] at h
    obtain ⟨hq, hfs⟩ := h
    have step : ∀ m : BitVec w,
        m = (if f.holdsState s.cfg then fieldMask w f else 0) →
        (writeField get put v f s = emit (List.replicate (if f.mode s.cfg = .tagged then 1 else 0) (.log .taggedWrite))
          (put ((get s &&& ~~~m) ||| (v &&& m)) s)) := by
      intro m hm
      cases hmode : f.mode s.cfg <;> simp only [Field.holdsState, hmode] at hm <;> subst hm
      · simp [writeField, hmode, c.put_get]
      · cases he : f.effect with
        | none => simp [writeField, hmode, he]
        | some e => cases e <;> simp_all [writeField, runEffect, Field.quiet]
      · cases he : f.effect with
        | none => simp [writeField, hmode, he]
        | some e => cases e <;> simp_all [writeField, runEffect, Field.quiet]
      · simp [writeField, hmode, c.put_get]
    rw [writeFields, step _ rfl, ih hfs]
    simp only [emit_cfg, c.put_cfg, c.get_emit, c.get_put, c.put_emit, c.put_put, emit_emit, blend_blend, storedMask,
      taggedCount, List.replicate_add]

/-- A field whose read changes nothing and shows its stored bits, or 0. -/
def Field.silent (f : Field) : Bool :=
  (f.provider == none && f.access == .rw) || (f.provider == some .zero && f.access == .ro)

/-- The closed form of R93's loop over such fields: the stored bits of the fields that hold state. -/
theorem readFields_silent {w : Nat} (get : State → BitVec w) (fs : List Field) (h : fs.all Field.silent = true)
    (s : State) : readFields get fs s = (get s &&& storedMask w s.cfg fs, s) := by
  induction fs with
  | nil => simp [readFields, storedMask]
  | cons f fs ih =>
    simp only [List.all_cons, Bool.and_eq_true] at h
    obtain ⟨hq, hfs⟩ := h
    have hr : readField get f s = (get s &&& (if f.holdsState s.cfg then fieldMask w f else 0), s) := by
      simp only [Field.silent, Bool.or_eq_true, Bool.and_eq_true, beq_iff_eq] at hq
      have hmode : f.mode s.cfg = .tagged ∨ f.mode s.cfg = f.access := by
        simp only [Field.mode]; split <;> simp
      rcases hq with ⟨hp, ha⟩ | ⟨hp, ha⟩ <;> rcases hmode with hm | hm <;>
        simp [readField, Field.holdsState, hm, ha, hp, provide, placeField]
    simp only [readFields, hr, ih hfs, storedMask]
    rw [Prod.mk.injEq]
    exact ⟨by ext i hi; simp; cases (get s)[i] <;> simp, rfl⟩

/-- A field that holds state lies within its register's stored bits. -/
theorem fieldMask_stored {w : Nat} {cfg : Params} {f : Field} {fs : List Field} (hf : f ∈ fs)
    (h : f.holdsState cfg = true) : fieldMask w f &&& ~~~storedMask w cfg fs = 0 := by
  induction fs with
  | nil => cases hf
  | cons g fs ih =>
    rcases List.mem_cons.mp hf with rfl | hf
    · ext i hi
      simp only [storedMask, h, if_true, BitVec.getElem_and, BitVec.getElem_not, BitVec.getElem_or]
      cases (fieldMask w f)[i] <;> simp
    · ext i hi
      have h1 := congrArg (fun b => b[i]) (ih hf)
      simp only [storedMask, BitVec.getElem_and, BitVec.getElem_not, BitVec.getElem_or] at h1 ⊢
      revert h1
      cases (fieldMask w f)[i] <;> cases (storedMask w cfg fs)[i] <;> simp

/-- Writing bits within a mask leaves a value within the mask. -/
theorem blend_within {w : Nat} {x v m k : BitVec w} (h : x &&& ~~~k = 0) (hm : m &&& ~~~k = 0) :
    ((x &&& ~~~m) ||| (v &&& m)) &&& ~~~k = 0 := by
  ext i hi
  have h1 := congrArg (fun b => b[i]) h
  have h2 := congrArg (fun b => b[i]) hm
  simp only [BitVec.getElem_and, BitVec.getElem_not, BitVec.getElem_or] at h1 h2 ⊢
  revert h1 h2
  cases x[i] <;> cases v[i] <;> cases m[i] <;> cases k[i] <;> simp

/-- A value masked by `k` lies within `k`. -/
theorem and_within {w : Nat} (a k : BitVec w) : (a &&& k) &&& ~~~k = 0 := by
  ext i hi
  simp only [BitVec.getElem_and, BitVec.getElem_not]
  cases a[i] <;> cases k[i] <;> simp

/-- The byte registers whose read is their stored bits and whose write has no effect beyond them. -/
def Reg8.plain (r : Reg8) : Bool :=
  (fields8 r).all Field.quiet && (fields8 r).all Field.silent && r.stores && r != .uartC2

/-- What a byte read of a storing register without a provider returns. -/
theorem regRead8_silent (r : Reg8) (h : (fields8 r).all Field.silent = true) (s : State) :
    regRead8 r s = (get8 r s &&& storedMask 8 s.cfg (fields8 r), s) :=
  readFields_silent _ _ h s

/-- What a byte write of a register without effects or hook does. -/
theorem regWrite8_quiet (r : Reg8) (hq : (fields8 r).all Field.quiet = true) (hs : r.stores = true) (hc : r ≠ .uartC2)
    (v : Byte) (s : State) :
    regWrite8 r v s = emit (List.replicate (taggedCount s.cfg (fields8 r)) (.log .taggedWrite))
      (put8 r ((get8 r s &&& ~~~storedMask 8 s.cfg (fields8 r)) ||| (v &&& storedMask 8 s.cfg (fields8 r))) s) := by
  have hp : ∀ x, postWrite r x = x := by
    intro x
    cases r <;> first | rfl | exact absurd rfl hc
  rw [regWrite8, hp, writeFields_quiet (cell8 r hs) v _ hq]

/-- UART C2: the same, then the hook (44_uart.md R232). -/
theorem regWrite8_uartC2 (v : Byte) (s : State) :
    regWrite8 .uartC2 v s = recompute (emit (List.replicate (taggedCount s.cfg (fields8 .uartC2)) (.log .taggedWrite))
      (put8 .uartC2 ((get8 .uartC2 s &&& ~~~storedMask 8 s.cfg (fields8 .uartC2)) |||
        (v &&& storedMask 8 s.cfg (fields8 .uartC2))) s)) := by
  rw [regWrite8, writeFields_quiet (cell8 .uartC2 rfl) v _ rfl]
  rfl

/-- SYST CSR and CVR (42_systick.md R151, R154). -/
theorem regWrite32_quiet (r : Reg32) (hq : (fields32 r).all Field.quiet = true) (hs : r.stores = true) (v : DWord)
    (s : State) :
    regWrite32 r v s = emit (List.replicate (taggedCount s.cfg (fields32 r)) (.log .taggedWrite))
      (put32 r ((get32 r s &&& ~~~storedMask 32 s.cfg (fields32 r)) ||| (v &&& storedMask 32 s.cfg (fields32 r))) s) :=
  writeFields_quiet (cell32 r hs) v _ hq s

end Sys2Proof.Machine
end

