-- ==== Sys2Proof/Laws/Exec.lean ====
section
/-! SUPPORT. What one transaction can do, once: a predicate kept by the block's elementary updates is kept by `exec`, and by
`step`. Invariants and whole-machine rules are instances. -/

namespace Sys2Proof.Machine

/-- RegsClean reads the parameters and the stored registers only. -/
theorem RegsClean.congr {s t : State} (h : RegsClean s) (hc : t.cfg = s.cfg) (h1 : t.syst = s.syst)
    (h2 : t.wdog = s.wdog) (h3 : t.uart = s.uart) (h4 : t.ics = s.ics) : RegsClean t := by
  have e8 : ∀ r, get8 r t = get8 r s := by intro r; cases r <;> simp only [get8, h2, h3, h4]
  have e32 : ∀ r, get32 r t = get32 r s := by intro r; cases r <;> simp only [get32, h1]
  exact ⟨fun r => by rw [e8, hc]; exact h.1 r, fun r => by rw [e32, hc]; exact h.2 r⟩

/-- Storing bits within a byte register's stored mask keeps RegsClean. -/
theorem RegsClean.put8 {r : Reg8} {v : Byte} {s : State} (h : RegsClean s)
    (hv : v &&& ~~~storedMask 8 s.cfg (fields8 r) = 0) : RegsClean (put8 r v s) := by
  have e32 : ∀ q, get32 q (Machine.put8 r v s) = get32 q s := by intro q; cases r <;> cases q <;> rfl
  refine ⟨fun q => ?_, fun q => by rw [e32, put8_cfg]; exact h.2 q⟩
  rw [put8_cfg]
  by_cases e : q = r
  · subst e
    by_cases hs : q.stores = true
    · rw [get8_put8 q hs]; exact hv
    · cases q <;> first | exact absurd rfl hs | exact BitVec.zero_and
  · rw [get8_put8_ne e]; exact h.1 q

/-- The same of a SYST register. -/
theorem RegsClean.put32 {r : Reg32} {v : DWord} {s : State} (h : RegsClean s)
    (hv : v &&& ~~~storedMask 32 s.cfg (fields32 r) = 0) : RegsClean (put32 r v s) := by
  have e8 : ∀ q, get8 q (Machine.put32 r v s) = get8 q s := by intro q; cases r <;> cases q <;> rfl
  refine ⟨fun q => by rw [e8, put32_cfg]; exact h.1 q, fun q => ?_⟩
  rw [put32_cfg]
  by_cases e : q = r
  · subst e
    by_cases hs : q.stores = true
    · rw [get32_put32 q hs]; exact hv
    · cases q <;> first | exact absurd rfl hs | exact BitVec.zero_and
  · rw [get32_put32_ne e]; exact h.2 q

/-- A predicate kept by every elementary update a register access can make. -/
structure AccessClosed (P : State → Prop) : Prop where
  log : ∀ k s, P s → P (emit [.log k] s)
  answer : ∀ d s, P s → P (answer d s)
  draws : ∀ n s, P s → P { s with draws := n }
  recompute : ∀ s, P s → P (recompute s)
  store8 : ∀ r f v s, f ∈ fields8 r → f.holdsState s.cfg = true → P s →
    P (put8 r ((get8 r s &&& ~~~fieldMask 8 f) ||| (v &&& fieldMask 8 f)) s)
  store32 : ∀ r f v s, f ∈ fields32 r → f.holdsState s.cfg = true → P s →
    P (put32 r ((get32 r s &&& ~~~fieldMask 32 f) ||| (v &&& fieldMask 32 f)) s)
  limit : ∀ t n s, s.cfg.reloadSetsLimit = true → P s → P (setTimer t { timer t s with limit := n } s)
  enqueue : ∀ b s, P s → P (flush { s with txq := s.txq ++ [b] })
  pop : ∀ b rest s, s.rxbuf = b :: rest → P s → P { s with rxbuf := rest }

/-- A predicate kept by every elementary update of the block. -/
structure Closed (P : State → Prop) : Prop extends AccessClosed P where
  push : ∀ b s, P s → P { s with rxbuf := s.rxbuf ++ [b] }
  tick : ∀ t s, P s → P (tick t s)
  resetSyst : ∀ s, P s → P (resetSyst s)
  resetWdog : ∀ s, P s → P (resetWdog s)
  resetUartRegs : ∀ s, P s → P (resetRegs8 { s with txq := [] } (deviceRegs8 .uart))
  resetIcs : ∀ s, P s → P (resetIcs s)
  clearRx : ∀ s, P s → P { s with rxbuf := [] }
  resetDone : ∀ s, P s → P { s with resetPending := false }

/-- The transactions that are no register access: ticks and host events. -/
def event : Instr → Bool
  | .tickSyst | .tickWdog | .resetSyst | .resetWdog | .resetUart | .resetIcs | .machineReset | .rxpush _ => true
  | _ => false

namespace AccessClosed

variable {P : State → Prop} (c : AccessClosed P)
include c

theorem writeData (b : Byte) (s : State) (h : P s) : P (writeData b s) := by
  unfold Machine.writeData
  split
  · exact c.log _ _ h
  · exact c.recompute _ (c.enqueue b s h)

theorem readData (s : State) (h : P s) : P (readData s).2 := by
  unfold Machine.readData
  split
  · exact c.log _ _ h
  · split
    · exact c.recompute _ (c.log _ _ h)
    · exact c.recompute _ (c.pop _ _ s (by assumption) h)

theorem drawCurrent {w : Nat} (x y : BitVec w) (s : State) (h : P s) : P (drawCurrent x y s).2 := by
  unfold Machine.drawCurrent
  split
  · exact h
  · exact h
  · exact c.draws _ s h

theorem provide (p : Provider) (s : State) (h : P s) : P (provide p s).2 := by
  cases p <;> simp only [Machine.provide] <;> first | exact h | exact c.drawCurrent _ _ s h | exact c.readData s h

theorem runEffect (e : Effect) (x y : DWord) (s : State) (h : P s) : P (runEffect e x y s) := by
  cases e <;> simp only [Machine.runEffect]
  · exact h
  · split
    · exact c.limit .syst _ s (by assumption) h
    · exact h
  · split
    · exact c.limit .wdog _ s (by assumption) h
    · exact h
  · exact c.writeData _ s h

theorem writeField {w : Nat} {get : State → BitVec w} {put : BitVec w → State → State} {v : BitVec w} {f : Field}
    (st : ∀ s, f.holdsState s.cfg = true → P s → P (put ((get s &&& ~~~fieldMask w f) ||| (v &&& fieldMask w f)) s))
    (s : State) (h : P s) : P (writeField get put v f s) := by
  unfold Machine.writeField
  split
  · exact h
  · exact c.log _ _ h
  all_goals
    rename_i hm
    have hp := st s (by simp [Field.holdsState, hm]) h
    split
    · exact hp
    · exact c.runEffect _ _ _ _ hp

theorem writeFields {w : Nat} {get : State → BitVec w} {put : BitVec w → State → State} {v : BitVec w} {fs : List Field}
    (st : ∀ f ∈ fs, ∀ s, f.holdsState s.cfg = true → P s →
      P (put ((get s &&& ~~~fieldMask w f) ||| (v &&& fieldMask w f)) s))
    (s : State) (h : P s) : P (writeFields get put v fs s) := by
  induction fs generalizing s with
  | nil => exact h
  | cons f fs ih =>
    exact ih (fun g hg => st g (List.mem_cons_of_mem f hg)) _ (c.writeField (st f List.mem_cons_self) s h)

theorem readFields {w : Nat} (get : State → BitVec w) (fs : List Field) (s : State) (h : P s) :
    P (readFields get fs s).2 := by
  induction fs generalizing s with
  | nil => exact h
  | cons f fs ih =>
    refine ih _ ?_
    unfold readField
    split <;> first | exact h | (split <;> first | exact h | exact c.provide _ s h)

theorem postWrite (r : Reg8) (s : State) (h : P s) : P (postWrite r s) := by
  unfold Machine.postWrite
  split
  · exact c.recompute s h
  · exact h

theorem regWrite8 (r : Reg8) (v : Byte) (s : State) (h : P s) : P (regWrite8 r v s) :=
  c.postWrite r _ (c.writeFields (fun f hf s => c.store8 r f v s hf) s h)

theorem regWrite32 (r : Reg32) (v : DWord) (s : State) (h : P s) : P (regWrite32 r v s) :=
  c.writeFields (fun f hf s => c.store32 r f v s hf) s h

theorem regRead8 (r : Reg8) (s : State) (h : P s) : P (regRead8 r s).2 := c.readFields _ _ s h

theorem regRead32 (r : Reg32) (s : State) (h : P s) : P (regRead32 r s).2 := c.readFields _ _ s h

theorem readSeq (rs : List Reg8) (s : State) (h : P s) : P (readSeq rs s).2 := by
  induction rs generalizing s with
  | nil => exact h
  | cons r rs ih => exact ih _ (c.regRead8 r s h)

theorem writeSeq (rs : List Reg8) (bs : List Byte) (s : State) (h : P s) : P (writeSeq rs bs s) := by
  induction rs generalizing bs s with
  | nil => exact h
  | cons r rs ih =>
    cases bs with
    | nil => exact h
    | cons b bs => exact ih _ _ (c.regWrite8 r b s h)

theorem read8 {r : Reg8} {s t : State} (h : P s) (e : read8 r s = .next t) : P t := by
  cases e; exact c.answer _ _ (c.regRead8 r s h)

theorem read32 {r : Reg32} {s t : State} (h : P s) (e : read32 r s = .next t) : P t := by
  cases e; exact c.answer _ _ (c.regRead32 r s h)

theorem write8 {r : Reg8} {v : Byte} {s t : State} (h : P s) (e : write8 r v s = .next t) : P t := by
  cases e; exact c.regWrite8 r v s h

theorem write32 {r : Reg32} {v : DWord} {s t : State} (h : P s) (e : write32 r v s = .next t) : P t := by
  cases e; exact c.regWrite32 r v s h

theorem wideRead16 {d : Device} {off : BitVec 8} {s t : State} (h : P s) (e : wideRead16 d off s = .next t) : P t := by
  unfold Machine.wideRead16 at e
  split at e <;> cases e
  exact c.answer _ _ (c.readSeq _ s h)

theorem wideRead32 {d : Device} {off : BitVec 8} {s t : State} (h : P s) (e : wideRead32 d off s = .next t) : P t := by
  unfold Machine.wideRead32 at e
  split at e <;> cases e
  exact c.answer _ _ (c.readSeq _ s h)

theorem wideWrite16 {d : Device} {off : BitVec 8} {v : BitVec 16} {s t : State} (h : P s)
    (e : wideWrite16 d off v s = .next t) : P t := by
  unfold Machine.wideWrite16 at e
  split at e <;> cases e
  exact c.writeSeq _ _ s h

theorem wideWrite32 {d : Device} {off : BitVec 8} {v : DWord} {s t : State} (h : P s)
    (e : wideWrite32 d off v s = .next t) : P t := by
  unfold Machine.wideWrite32 at e
  split at e <;> cases e
  exact c.writeSeq _ _ s h

/-- A predicate kept by the elementary updates of accesses is kept by every register access. -/
theorem exec {i : Instr} {s t : State} (hi : event i = false) (h : P s) (e : exec i s = .next t) : P t := by
  cases i with
  | rd32SystCsr => exact c.read32 h e
  | wr32SystCsr _ => exact c.write32 h e
  | rd32SystRvr => exact c.read32 h e
  | wr32SystRvr _ => exact c.write32 h e
  | rd32SystCvr => exact c.read32 h e
  | wr32SystCvr _ => exact c.write32 h e
  | rd32SystCalib => exact c.read32 h e
  | wr32SystCalib _ => exact c.write32 h e
  | rd8WdogCs1 => exact c.read8 h e
  | wr8WdogCs1 _ => exact c.write8 h e
  | rd8WdogCs2 => exact c.read8 h e
  | wr8WdogCs2 _ => exact c.write8 h e
  | rd8WdogCnth => exact c.read8 h e
  | wr8WdogCnth _ => exact c.write8 h e
  | rd8WdogCntl => exact c.read8 h e
  | wr8WdogCntl _ => exact c.write8 h e
  | rd8WdogTovalh => exact c.read8 h e
  | wr8WdogTovalh _ => exact c.write8 h e
  | rd8WdogTovall => exact c.read8 h e
  | wr8WdogTovall _ => exact c.write8 h e
  | rd8WdogWinh => exact c.read8 h e
  | wr8WdogWinh _ => exact c.write8 h e
  | rd8WdogWinl => exact c.read8 h e
  | wr8WdogWinl _ => exact c.write8 h e
  | rd8UartBdh => exact c.read8 h e
  | wr8UartBdh _ => exact c.write8 h e
  | rd8UartBdl => exact c.read8 h e
  | wr8UartBdl _ => exact c.write8 h e
  | rd8UartC1 => exact c.read8 h e
  | wr8UartC1 _ => exact c.write8 h e
  | rd8UartC2 => exact c.read8 h e
  | wr8UartC2 _ => exact c.write8 h e
  | rd8UartS1 => exact c.read8 h e
  | wr8UartS1 _ => exact c.write8 h e
  | rd8UartS2 => exact c.read8 h e
  | wr8UartS2 _ => exact c.write8 h e
  | rd8UartC3 => exact c.read8 h e
  | wr8UartC3 _ => exact c.write8 h e
  | rd8UartD => exact c.read8 h e
  | wr8UartD _ => exact c.write8 h e
  | rd8IcsC1 => exact c.read8 h e
  | wr8IcsC1 _ => exact c.write8 h e
  | rd8IcsC2 => exact c.read8 h e
  | wr8IcsC2 _ => exact c.write8 h e
  | rd8IcsC3 => exact c.read8 h e
  | wr8IcsC3 _ => exact c.write8 h e
  | rd8IcsC4 => exact c.read8 h e
  | wr8IcsC4 _ => exact c.write8 h e
  | rd8IcsS => exact c.read8 h e
  | wr8IcsS _ => exact c.write8 h e
  | rd16Wdog _ => exact c.wideRead16 h e
  | wr16Wdog _ _ => exact c.wideWrite16 h e
  | rd32Wdog _ => exact c.wideRead32 h e
  | wr32Wdog _ _ => exact c.wideWrite32 h e
  | rd16Uart _ => exact c.wideRead16 h e
  | wr16Uart _ _ => exact c.wideWrite16 h e
  | rd32Uart _ => exact c.wideRead32 h e
  | wr32Uart _ _ => exact c.wideWrite32 h e
  | rd16Ics _ => exact c.wideRead16 h e
  | wr16Ics _ _ => exact c.wideWrite16 h e
  | rd32Ics _ => exact c.wideRead32 h e
  | wr32Ics _ _ => exact c.wideWrite32 h e
  | tickSyst => exact Bool.noConfusion hi
  | tickWdog => exact Bool.noConfusion hi
  | resetSyst => exact Bool.noConfusion hi
  | resetWdog => exact Bool.noConfusion hi
  | resetUart => exact Bool.noConfusion hi
  | resetIcs => exact Bool.noConfusion hi
  | machineReset => exact Bool.noConfusion hi
  | rxpush _ => exact Bool.noConfusion hi

end AccessClosed

namespace Closed

variable {P : State → Prop} (c : Closed P)
include c

theorem resetUart (s : State) (h : P s) : P (resetUart s) := c.recompute _ (c.resetUartRegs s h)

theorem machineReset (s : State) (h : P s) : P (machineReset s) :=
  c.resetDone _ (c.resetIcs _ (c.resetUart _ (c.resetWdog _ (c.resetSyst _ (c.clearRx s h)))))

theorem rxPush (b : Byte) (s : State) (h : P s) : P (rxPush b s) := by
  unfold Machine.rxPush
  split
  · exact c.recompute _ (c.push b s h)
  · exact c.push b s h

/-- A predicate kept by the elementary updates is kept by every transaction. -/
theorem exec {i : Instr} {s t : State} (h : P s) (e : exec i s = .next t) : P t := by
  by_cases hi : event i = false
  · exact c.toAccessClosed.exec hi h e
  cases i <;> first | exact absurd rfl hi | skip
  case tickSyst => cases e; exact c.tick _ s h
  case tickWdog => cases e; exact c.tick _ s h
  case resetSyst => cases e; exact c.resetSyst s h
  case resetWdog => cases e; exact c.resetWdog s h
  case resetUart => cases e; exact c.resetUart s h
  case resetIcs => cases e; exact c.resetIcs s h
  case machineReset => cases e; exact c.machineReset s h
  case rxpush b => cases e; exact c.rxPush _ s h

end Closed

/-- What a step that answers a next state is: idle with nothing offered, or the oldest transaction executed. -/
theorem step_cases {s t : State} (e : step s = .next t) :
    s.fault = none ∧ ((s.pending = [] ∧ t = s) ∨
      ∃ tr rest i, s.pending = tr :: rest ∧ decode tr = .ok i ∧ exec i { s with pending := rest } = .next t) := by
  unfold step takeTransaction at e
  cases hf : s.fault with
  | some r => simp [hf] at e
  | none =>
    refine ⟨rfl, ?_⟩
    cases hp : s.pending with
    | nil => simp [hf, hp] at e; exact .inl ⟨rfl, e.symm⟩
    | cons tr rest =>
      simp only [hf, hp] at e
      cases hd : decode tr with
      | error x => simp [hd] at e
      | ok i => simp only [hd] at e; exact .inr ⟨tr, rest, i, rfl, hd, e⟩

/-- A step runs the decoded transaction. -/
theorem step_of_decode {s : State} {tr : Transaction} {rest : List Transaction} {i : Instr} (hf : s.fault = none)
    (hp : s.pending = tr :: rest) (hd : decode tr = .ok i) : step s = exec i { s with pending := rest } := by
  simp [step, takeTransaction, hf, hp, hd]

/-- A predicate kept by the elementary updates and by taking a transaction off the queue is kept by every step. -/
theorem Closed.step {P : State → Prop} (c : Closed P) (take : ∀ q s, P s → P { s with pending := q }) {s t : State}
    (h : P s) (e : step s = .next t) : P t := by
  obtain ⟨-, ⟨-, rfl⟩ | ⟨tr, rest, i, -, -, hx⟩⟩ := step_cases e
  · exact h
  · exact c.exec (take rest s h) hx

end Sys2Proof.Machine
end

