-- ==== Sys2Proof/Laws/PerInstr.lean ====
section
/-! SUPPORT. Laws stated per instruction, one lemma per constructor of Instr. -/

namespace Sys2Proof.Laws

/-- The encoder agrees with the instruction's row of 30_encoding.md R78's table: its descriptor matches under the mask. -/
def MatchesTableRow.Statement (i : Instr) : Prop :=
  (encode i).desc &&& tableMask i = tableMatch i

namespace MatchesTableRow

theorem rd32SystCsr : Statement .rd32SystCsr := by
  show accDesc .syst 0 .dword 0x0 &&& 0xFFFF = 0x0200
  decide
theorem wr32SystCsr (wdata : DWord) : Statement (.wr32SystCsr wdata) := by
  show accDesc .syst 1 .dword 0x0 &&& 0xFFFF = 0x0600
  decide
theorem rd32SystRvr : Statement .rd32SystRvr := by
  show accDesc .syst 0 .dword 0x4 &&& 0xFFFF = 0x0204
  decide
theorem wr32SystRvr (wdata : DWord) : Statement (.wr32SystRvr wdata) := by
  show accDesc .syst 1 .dword 0x4 &&& 0xFFFF = 0x0604
  decide
theorem rd32SystCvr : Statement .rd32SystCvr := by
  show accDesc .syst 0 .dword 0x8 &&& 0xFFFF = 0x0208
  decide
theorem wr32SystCvr (wdata : DWord) : Statement (.wr32SystCvr wdata) := by
  show accDesc .syst 1 .dword 0x8 &&& 0xFFFF = 0x0608
  decide
theorem rd32SystCalib : Statement .rd32SystCalib := by
  show accDesc .syst 0 .dword 0xC &&& 0xFFFF = 0x020C
  decide
theorem wr32SystCalib (wdata : DWord) : Statement (.wr32SystCalib wdata) := by
  show accDesc .syst 1 .dword 0xC &&& 0xFFFF = 0x060C
  decide
theorem rd8WdogCs1 : Statement .rd8WdogCs1 := by
  show accDesc .wdog 0 .byte 0x0 &&& 0xFFFF = 0x0800
  decide
theorem wr8WdogCs1 (wdata : Byte) : Statement (.wr8WdogCs1 wdata) := by
  show accDesc .wdog 1 .byte 0x0 &&& 0xFFFF = 0x0C00
  decide
theorem rd8WdogCs2 : Statement .rd8WdogCs2 := by
  show accDesc .wdog 0 .byte 0x1 &&& 0xFFFF = 0x0801
  decide
theorem wr8WdogCs2 (wdata : Byte) : Statement (.wr8WdogCs2 wdata) := by
  show accDesc .wdog 1 .byte 0x1 &&& 0xFFFF = 0x0C01
  decide
theorem rd8WdogCnth : Statement .rd8WdogCnth := by
  show accDesc .wdog 0 .byte 0x2 &&& 0xFFFF = 0x0802
  decide
theorem wr8WdogCnth (wdata : Byte) : Statement (.wr8WdogCnth wdata) := by
  show accDesc .wdog 1 .byte 0x2 &&& 0xFFFF = 0x0C02
  decide
theorem rd8WdogCntl : Statement .rd8WdogCntl := by
  show accDesc .wdog 0 .byte 0x3 &&& 0xFFFF = 0x0803
  decide
theorem wr8WdogCntl (wdata : Byte) : Statement (.wr8WdogCntl wdata) := by
  show accDesc .wdog 1 .byte 0x3 &&& 0xFFFF = 0x0C03
  decide
theorem rd8WdogTovalh : Statement .rd8WdogTovalh := by
  show accDesc .wdog 0 .byte 0x4 &&& 0xFFFF = 0x0804
  decide
theorem wr8WdogTovalh (wdata : Byte) : Statement (.wr8WdogTovalh wdata) := by
  show accDesc .wdog 1 .byte 0x4 &&& 0xFFFF = 0x0C04
  decide
theorem rd8WdogTovall : Statement .rd8WdogTovall := by
  show accDesc .wdog 0 .byte 0x5 &&& 0xFFFF = 0x0805
  decide
theorem wr8WdogTovall (wdata : Byte) : Statement (.wr8WdogTovall wdata) := by
  show accDesc .wdog 1 .byte 0x5 &&& 0xFFFF = 0x0C05
  decide
theorem rd8WdogWinh : Statement .rd8WdogWinh := by
  show accDesc .wdog 0 .byte 0x6 &&& 0xFFFF = 0x0806
  decide
theorem wr8WdogWinh (wdata : Byte) : Statement (.wr8WdogWinh wdata) := by
  show accDesc .wdog 1 .byte 0x6 &&& 0xFFFF = 0x0C06
  decide
theorem rd8WdogWinl : Statement .rd8WdogWinl := by
  show accDesc .wdog 0 .byte 0x7 &&& 0xFFFF = 0x0807
  decide
theorem wr8WdogWinl (wdata : Byte) : Statement (.wr8WdogWinl wdata) := by
  show accDesc .wdog 1 .byte 0x7 &&& 0xFFFF = 0x0C07
  decide
theorem rd8UartBdh : Statement .rd8UartBdh := by
  show accDesc .uart 0 .byte 0x0 &&& 0xFFFF = 0x1000
  decide
theorem wr8UartBdh (wdata : Byte) : Statement (.wr8UartBdh wdata) := by
  show accDesc .uart 1 .byte 0x0 &&& 0xFFFF = 0x1400
  decide
theorem rd8UartBdl : Statement .rd8UartBdl := by
  show accDesc .uart 0 .byte 0x1 &&& 0xFFFF = 0x1001
  decide
theorem wr8UartBdl (wdata : Byte) : Statement (.wr8UartBdl wdata) := by
  show accDesc .uart 1 .byte 0x1 &&& 0xFFFF = 0x1401
  decide
theorem rd8UartC1 : Statement .rd8UartC1 := by
  show accDesc .uart 0 .byte 0x2 &&& 0xFFFF = 0x1002
  decide
theorem wr8UartC1 (wdata : Byte) : Statement (.wr8UartC1 wdata) := by
  show accDesc .uart 1 .byte 0x2 &&& 0xFFFF = 0x1402
  decide
theorem rd8UartC2 : Statement .rd8UartC2 := by
  show accDesc .uart 0 .byte 0x3 &&& 0xFFFF = 0x1003
  decide
theorem wr8UartC2 (wdata : Byte) : Statement (.wr8UartC2 wdata) := by
  show accDesc .uart 1 .byte 0x3 &&& 0xFFFF = 0x1403
  decide
theorem rd8UartS1 : Statement .rd8UartS1 := by
  show accDesc .uart 0 .byte 0x4 &&& 0xFFFF = 0x1004
  decide
theorem wr8UartS1 (wdata : Byte) : Statement (.wr8UartS1 wdata) := by
  show accDesc .uart 1 .byte 0x4 &&& 0xFFFF = 0x1404
  decide
theorem rd8UartS2 : Statement .rd8UartS2 := by
  show accDesc .uart 0 .byte 0x5 &&& 0xFFFF = 0x1005
  decide
theorem wr8UartS2 (wdata : Byte) : Statement (.wr8UartS2 wdata) := by
  show accDesc .uart 1 .byte 0x5 &&& 0xFFFF = 0x1405
  decide
theorem rd8UartC3 : Statement .rd8UartC3 := by
  show accDesc .uart 0 .byte 0x6 &&& 0xFFFF = 0x1006
  decide
theorem wr8UartC3 (wdata : Byte) : Statement (.wr8UartC3 wdata) := by
  show accDesc .uart 1 .byte 0x6 &&& 0xFFFF = 0x1406
  decide
theorem rd8UartD : Statement .rd8UartD := by
  show accDesc .uart 0 .byte 0x7 &&& 0xFFFF = 0x1007
  decide
theorem wr8UartD (wdata : Byte) : Statement (.wr8UartD wdata) := by
  show accDesc .uart 1 .byte 0x7 &&& 0xFFFF = 0x1407
  decide
theorem rd8IcsC1 : Statement .rd8IcsC1 := by
  show accDesc .ics 0 .byte 0x0 &&& 0xFFFF = 0x1800
  decide
theorem wr8IcsC1 (wdata : Byte) : Statement (.wr8IcsC1 wdata) := by
  show accDesc .ics 1 .byte 0x0 &&& 0xFFFF = 0x1C00
  decide
theorem rd8IcsC2 : Statement .rd8IcsC2 := by
  show accDesc .ics 0 .byte 0x1 &&& 0xFFFF = 0x1801
  decide
theorem wr8IcsC2 (wdata : Byte) : Statement (.wr8IcsC2 wdata) := by
  show accDesc .ics 1 .byte 0x1 &&& 0xFFFF = 0x1C01
  decide
theorem rd8IcsC3 : Statement .rd8IcsC3 := by
  show accDesc .ics 0 .byte 0x2 &&& 0xFFFF = 0x1802
  decide
theorem wr8IcsC3 (wdata : Byte) : Statement (.wr8IcsC3 wdata) := by
  show accDesc .ics 1 .byte 0x2 &&& 0xFFFF = 0x1C02
  decide
theorem rd8IcsC4 : Statement .rd8IcsC4 := by
  show accDesc .ics 0 .byte 0x3 &&& 0xFFFF = 0x1803
  decide
theorem wr8IcsC4 (wdata : Byte) : Statement (.wr8IcsC4 wdata) := by
  show accDesc .ics 1 .byte 0x3 &&& 0xFFFF = 0x1C03
  decide
theorem rd8IcsS : Statement .rd8IcsS := by
  show accDesc .ics 0 .byte 0x4 &&& 0xFFFF = 0x1804
  decide
theorem wr8IcsS (wdata : Byte) : Statement (.wr8IcsS wdata) := by
  show accDesc .ics 1 .byte 0x4 &&& 0xFFFF = 0x1C04
  decide
theorem rd16Wdog (off : BitVec 8) : Statement (.rd16Wdog off) := by
  show accDesc .wdog 0 .word off &&& 0xFF00 = 0x0900
  revert off; decide
theorem wr16Wdog (off : BitVec 8) (wdata : BitVec 16) : Statement (.wr16Wdog off wdata) := by
  show accDesc .wdog 1 .word off &&& 0xFF00 = 0x0D00
  revert off; decide
theorem rd32Wdog (off : BitVec 8) : Statement (.rd32Wdog off) := by
  show accDesc .wdog 0 .dword off &&& 0xFF00 = 0x0A00
  revert off; decide
theorem wr32Wdog (off : BitVec 8) (wdata : DWord) : Statement (.wr32Wdog off wdata) := by
  show accDesc .wdog 1 .dword off &&& 0xFF00 = 0x0E00
  revert off; decide
theorem rd16Uart (off : BitVec 8) : Statement (.rd16Uart off) := by
  show accDesc .uart 0 .word off &&& 0xFF00 = 0x1100
  revert off; decide
theorem wr16Uart (off : BitVec 8) (wdata : BitVec 16) : Statement (.wr16Uart off wdata) := by
  show accDesc .uart 1 .word off &&& 0xFF00 = 0x1500
  revert off; decide
theorem rd32Uart (off : BitVec 8) : Statement (.rd32Uart off) := by
  show accDesc .uart 0 .dword off &&& 0xFF00 = 0x1200
  revert off; decide
theorem wr32Uart (off : BitVec 8) (wdata : DWord) : Statement (.wr32Uart off wdata) := by
  show accDesc .uart 1 .dword off &&& 0xFF00 = 0x1600
  revert off; decide
theorem rd16Ics (off : BitVec 8) : Statement (.rd16Ics off) := by
  show accDesc .ics 0 .word off &&& 0xFF00 = 0x1900
  revert off; decide
theorem wr16Ics (off : BitVec 8) (wdata : BitVec 16) : Statement (.wr16Ics off wdata) := by
  show accDesc .ics 1 .word off &&& 0xFF00 = 0x1D00
  revert off; decide
theorem rd32Ics (off : BitVec 8) : Statement (.rd32Ics off) := by
  show accDesc .ics 0 .dword off &&& 0xFF00 = 0x1A00
  revert off; decide
theorem wr32Ics (off : BitVec 8) (wdata : DWord) : Statement (.wr32Ics off wdata) := by
  show accDesc .ics 1 .dword off &&& 0xFF00 = 0x1E00
  revert off; decide
theorem tickSyst : Statement .tickSyst := by
  show evtDesc 0 0 0 &&& 0xFFFF = 0x4000
  decide
theorem tickWdog : Statement .tickWdog := by
  show evtDesc 1 0 0 &&& 0xFFFF = 0x4800
  decide
theorem resetSyst : Statement .resetSyst := by
  show evtDesc 0 1 0 &&& 0xFFFF = 0x4100
  decide
theorem resetWdog : Statement .resetWdog := by
  show evtDesc 1 1 0 &&& 0xFFFF = 0x4900
  decide
theorem resetUart : Statement .resetUart := by
  show evtDesc 2 1 0 &&& 0xFFFF = 0x5100
  decide
theorem resetIcs : Statement .resetIcs := by
  show evtDesc 3 1 0 &&& 0xFFFF = 0x5900
  decide
theorem machineReset : Statement .machineReset := by
  show evtDesc 7 1 0 &&& 0xFFFF = 0x7900
  decide
theorem rxpush (byte : Byte) : Statement (.rxpush byte) := by
  show evtDesc 2 2 byte &&& 0xFF00 = 0x5200
  revert byte; decide

end MatchesTableRow

end Sys2Proof.Laws
end

