-- ==== Sys2Proof/Laws/Registers.lean ====
section
/-! SUPPORT. What a register access does, for the registers whose read is computed or whose write has an effect; Laws/RegFile
has the others. And what any access to a device can change. -/

namespace Sys2Proof.Machine

/-- The mask of a field that is the whole byte. -/
theorem fieldMask_byte (f : Field) (hl : f.lo = 0) (hw : f.width = 8) : fieldMask 8 f = BitVec.allOnes 8 := by
  rw [fieldMask, hl, hw]; decide

/-- Storing such a field stores the byte. -/
theorem blend_byte (x v : Byte) (f : Field) (hl : f.lo = 0) (hw : f.width = 8) :
    (x &&& ~~~fieldMask 8 f) ||| (v &&& fieldMask 8 f) = v := by
  rw [fieldMask_byte f hl hw, BitVec.and_allOnes, BitVec.not_allOnes, BitVec.and_zero, BitVec.zero_or]

/-- Its bits are the byte. -/
theorem fieldBits_byte (v : Byte) (f : Field) (hl : f.lo = 0) (hw : f.width = 8) :
    (fieldBits f v).setWidth 8 = v := by
  rw [fieldBits, fieldMask_byte f hl hw, BitVec.and_allOnes, hl]; simp

/-- Its provider's byte is the read result. -/
theorem placeField_byte (x : Byte) (f : Field) (hl : f.lo = 0) (hw : f.width = 8) :
    (placeField f (x.setWidth 32) : Byte) = x := by
  rw [placeField, fieldMask_byte f hl hw, BitVec.and_allOnes, hl]; simp

/-- A timeout byte write stores the byte, then runs the effect (43_watchdog.md R183). -/
theorem regWrite8_tovalh (v : Byte) (s : State) : regWrite8 .wdogTovalh v s =
    runEffect .timeout 0 0 (put8 .wdogTovalh v s) := by
  simp only [regWrite8, postWrite, fields8, writeFields, writeField, effectField, Field.mode, Bool.false_and,
    Bool.false_eq_true, if_false]
  rw [blend_byte _ _ _ rfl rfl]
  rfl
theorem regWrite8_tovall (v : Byte) (s : State) : regWrite8 .wdogTovall v s =
    runEffect .timeout 0 0 (put8 .wdogTovall v s) := by
  simp only [regWrite8, postWrite, fields8, writeFields, writeField, effectField, Field.mode, Bool.false_and,
    Bool.false_eq_true, if_false]
  rw [blend_byte _ _ _ rfl rfl]
  rfl
/-- A D write stores the byte, then runs WriteData (44_uart.md R234, R236). -/
theorem regWrite8_uartD (v : Byte) (s : State) : regWrite8 .uartD v s = writeData v (put8 .uartD v s) := by
  simp only [regWrite8, postWrite, fields8, writeFields, writeField, Field.mode, Bool.false_and,
    Bool.false_eq_true, if_false, runEffect]
  rw [blend_byte _ _ _ rfl rfl, fieldBits_byte _ _ rfl rfl]
/-- Writes of registers with read-only fields only (44_uart.md R230, 45_ics.md R284, 42_systick.md R156). -/
theorem regWrite8_uartS1 (v : Byte) (s : State) : regWrite8 .uartS1 v s = s := rfl
theorem regWrite8_icsS (v : Byte) (s : State) : regWrite8 .icsS v s = s := rfl
theorem regWrite32_calib (v : DWord) (s : State) : regWrite32 .calib v s = s := rfl

/-- A read of a register that is one computed field. -/
theorem regRead8_one (r : Reg8) (f : Field) (p : Provider) (h : fields8 r = [f]) (hp : f.provider = some p) (hi : f.inert = false)
    (ha : f.access = .rw ∨ f.access = .ro) (s : State) :
    regRead8 r s = (placeField f (provide p s).1, (provide p s).2) := by
  have hm : f.mode s.cfg = .rw ∨ f.mode s.cfg = .ro := by simpa [Field.mode, hi] using ha
  rcases hm with hm | hm <;> simp [regRead8, h, readFields, readField, hm, hp]
/-- Reads of the watchdog counter bytes (43_watchdog.md R185), UART D (44_uart.md R239) and ICS S (45_ics.md R283). -/
theorem regRead8_cnth (s : State) : regRead8 .wdogCnth s = drawCurrent s.wdog.cnth ((liveWdog s).extractLsb' 8 8) s := by
  rw [regRead8_one .wdogCnth _ _ rfl rfl rfl (.inl rfl)]
  simp only [provide]; rw [placeField_byte _ _ rfl rfl]
theorem regRead8_cntl (s : State) : regRead8 .wdogCntl s = drawCurrent s.wdog.cntl ((liveWdog s).extractLsb' 0 8) s := by
  rw [regRead8_one .wdogCntl _ _ rfl rfl rfl (.inl rfl)]
  simp only [provide]; rw [placeField_byte _ _ rfl rfl]
theorem regRead8_uartD (s : State) : regRead8 .uartD s = readData s := by
  rw [regRead8_one .uartD _ _ rfl rfl rfl (.inl rfl)]
  simp only [provide]; rw [placeField_byte _ _ rfl rfl]
theorem regRead8_icsS (s : State) : regRead8 .icsS s = (s.cfg.rvIcsS, s) := by
  rw [regRead8_one .icsS _ _ rfl rfl rfl (.inr rfl)]
  simp only [provide]; rw [placeField_byte _ _ rfl rfl]

/-- A read of S1 (44_uart.md R223 to R225, R230). -/
theorem regRead8_uartS1 (s : State) : regRead8 .uartS1 s =
    (BitVec.ofBool (tdre s) ++ BitVec.ofBool (tc s) ++ BitVec.ofBool (rdrf s) ++ 0#5, s) := by
  simp only [regRead8, fields8, readFields, readField, computedField, Field.mode, Bool.false_and,
    Bool.false_eq_true, if_false, provide]
  rw [Prod.mk.injEq]
  refine ⟨?_, rfl⟩
  cases tdre s <;> cases tc s <;> cases rdrf s <;> decide

/-- A read of CALIB (42_systick.md R156). -/
theorem regRead32_calib (s : State) : regRead32 .calib s = (s.cfg.systCalib, s) := by
  simp only [regRead32, fields32, readFields, readField, computedField, Field.mode, Bool.false_and,
    Bool.false_eq_true, if_false, provide]
  rw [placeField, show fieldMask 32 _ = BitVec.allOnes 32 from rfl, BitVec.and_allOnes]; simp

/-- A read of CVR (R155). -/
theorem regRead32_cvr (s : State) : regRead32 .cvr s =
    ((drawCurrent (currentField s) (liveSyst s) s).1.setWidth 32, (drawCurrent (currentField s) (liveSyst s) s).2) := by
  simp only [regRead32, fields32, readFields, readField, Field.mode, Bool.false_and,
    Bool.false_eq_true, if_false, provide]
  generalize drawCurrent (currentField s) (liveSyst s) s = x
  rw [Prod.mk.injEq]
  refine ⟨?_, rfl⟩
  have h : fieldMask 32 ⟨.systCurrent, 0, 24, .rw, false, some .current, none⟩ = (BitVec.allOnes 24).setWidth 32 := by decide
  rw [placeField, h]
  ext i hi
  have := @BitVec.lt_of_getLsbD 24 x.1 i
  simp only [BitVec.getElem_or, BitVec.getElem_and, BitVec.getElem_setWidth, BitVec.getLsbD_allOnes]
  simpa using this

/-- Reads of CSR and RVR (R152, R153). -/
theorem regRead32_silent (r : Reg32) (h : (fields32 r).all Field.silent = true) (s : State) :
    regRead32 r s = (get32 r s &&& storedMask 32 s.cfg (fields32 r), s) :=
  readFields_silent _ _ h s

/-- A write of RVR stores the field, then runs the effect (R153). -/
theorem regWrite32_rvr (v : DWord) (s : State) : regWrite32 .rvr v s =
    runEffect .reload 0 0 (put32 .rvr ((s.syst.rvr &&& ~~~0xFFFFFF) ||| (v &&& 0xFFFFFF)) s) := by
  simp only [regWrite32, fields32, writeFields, writeField, effectField, Field.mode, Bool.false_and, Bool.false_eq_true, if_false, get32]
  rfl

/-- No read sees the last read's result. -/
theorem regRead8_answer (r : Reg8) (d : Data) (s : State) :
    regRead8 r (answer d s) = ((regRead8 r s).1, answer d (regRead8 r s).2) := by
  by_cases h : (fields8 r).all Field.silent = true
  · rw [regRead8_silent r h, regRead8_silent r h]
    cases r <;> rfl
  · have draw : ∀ x y : Byte, drawCurrent x y (answer d s) = ((drawCurrent x y s).1, answer d (drawCurrent x y s).2) := by
      intro x y
      unfold drawCurrent
      simp only [answer_cfg]
      cases s.cfg.currentRead <;> rfl
    cases r <;> first | exact absurd rfl h | skip
    · rw [regRead8_cnth, regRead8_cnth]; exact draw _ _
    · rw [regRead8_cntl, regRead8_cntl]; exact draw _ _
    · rw [regRead8_uartS1, regRead8_uartS1]; rfl
    · rw [regRead8_uartD, regRead8_uartD]
      unfold readData
      change (if rxEnabled s = false then _ else _) = _
      cases hr : rxEnabled s with
      | false => rfl
      | true =>
        simp only [Bool.true_eq_false, if_false, answer_rxbuf]
        cases s.rxbuf <;> (simp only [recompute_eq]; rfl)
    · rw [regRead8_icsS, regRead8_icsS]; rfl

theorem read8_answer (r : Reg8) (d : Data) (s : State) : read8 r (answer d s) = read8 r s := by
  rw [read8, read8, regRead8_answer]
  rfl

/-- The device of a byte register. -/
def Reg8.device : Reg8 → Device
  | .wdogCs1 | .wdogCs2 | .wdogCnth | .wdogCntl | .wdogTovalh | .wdogTovall | .wdogWinh | .wdogWinl => .wdog
  | .uartBdh | .uartBdl | .uartC1 | .uartC2 | .uartS1 | .uartS2 | .uartC3 | .uartD => .uart
  | .icsC1 | .icsC2 | .icsC3 | .icsC4 | .icsS => .ics

/-- Storing a byte register's bits changes its device's registers only. -/
theorem put8_of_wdog {r : Reg8} (h : r.device = .wdog) (v : Byte) (s : State) :
    put8 r v s = { s with wdog := (put8 r v s).wdog } := by
  cases r <;> first | exact absurd h (by decide) | rfl

theorem put8_of_uart {r : Reg8} (h : r.device = .uart) (v : Byte) (s : State) :
    put8 r v s = { s with uart := (put8 r v s).uart } := by
  cases r <;> first | exact absurd h (by decide) | rfl

theorem put8_of_ics {r : Reg8} (h : r.device = .ics) (v : Byte) (s : State) :
    put8 r v s = { s with ics := (put8 r v s).ics } := by
  cases r <;> first | exact absurd h (by decide) | rfl

/-- A byte write at the watchdog changes its registers, its limit and the history. -/
theorem regWrite8_wdog (r : Reg8) (h : r.device = .wdog) (v : Byte) (s : State) :
    ∃ w n es, regWrite8 r v s = { s with wdog := w, tW := ⟨s.tW.count, n⟩, hist := s.hist ++ es } := by
  have limit : ∀ x, ∃ w n es, runEffect .timeout 0 0 (put8 r x s) =
      { s with wdog := w, tW := ⟨s.tW.count, n⟩, hist := s.hist ++ es } := by
    intro x
    refine ⟨(put8 r x s).wdog, if s.cfg.reloadSetsLimit then (timeoutField (put8 r x s)).toNat else s.tW.limit, [], ?_⟩
    simp only [runEffect, put8_cfg]
    cases s.cfg.reloadSetsLimit <;> cases r <;> first | exact absurd h (by decide) | simp [put8, setTimer]
  by_cases hr : r = .wdogTovalh ∨ r = .wdogTovall
  · rcases hr with rfl | rfl
    · rw [regWrite8_tovalh]; exact limit v
    · rw [regWrite8_tovall]; exact limit v
  · rw [regWrite8_quiet r (by cases r <;> first | exact absurd h (by decide) | rfl | simp at hr) (by cases r <;> first | exact absurd h (by decide) | rfl)
      (by cases r <;> first | exact absurd h (by decide) | decide)]
    rw [put8_of_wdog h]
    exact ⟨_, _, _, rfl⟩

/-- A byte write at the UART changes its registers, its queue and line and the history. -/
theorem regWrite8_uart (r : Reg8) (h : r.device = .uart) (v : Byte) (s : State) :
    ∃ u q b es, regWrite8 r v s = { s with uart := u, txq := q, uartIrq := b, hist := s.hist ++ es } := by
  by_cases hr : r = .uartC2 ∨ r = .uartS1 ∨ r = .uartD
  · rcases hr with rfl | rfl | rfl
    · rw [regWrite8_uartC2, recompute_eq]
      exact ⟨_, _, _, _, state_ext rfl rfl rfl rfl rfl rfl rfl rfl rfl rfl rfl (List.append_assoc _ _ _) rfl rfl rfl rfl⟩
    · exact ⟨s.uart, s.txq, s.uartIrq, [], by simp [regWrite8_uartS1]⟩
    · rw [regWrite8_uartD]
      rcases writeData_cases v (put8 .uartD v s) with ⟨-, e⟩ | ⟨-, e⟩ <;> rw [e]
      · exact ⟨_, _, _, _, rfl⟩
      · rw [recompute_eq, flush_eq]
        exact ⟨_, _, _, _, state_ext rfl rfl rfl rfl rfl rfl rfl rfl rfl rfl rfl (List.append_assoc _ _ _) rfl rfl rfl rfl⟩
  · rw [regWrite8_quiet r (by cases r <;> first | exact absurd h (by decide) | rfl | simp at hr)
      (by cases r <;> first | exact absurd h (by decide) | rfl | simp at hr) (by cases r <;> first | exact absurd h (by decide) | decide | simp at hr)]
    rw [put8_of_uart h]
    exact ⟨_, _, _, _, rfl⟩

/-- A byte write at the ICS changes its registers and the history. -/
theorem regWrite8_ics (r : Reg8) (h : r.device = .ics) (v : Byte) (s : State) :
    ∃ i es, regWrite8 r v s = { s with ics := i, hist := s.hist ++ es } := by
  by_cases hr : r = .icsS
  · subst hr
    exact ⟨s.ics, [], by simp [regWrite8_icsS]⟩
  · rw [regWrite8_quiet r (by cases r <;> first | exact absurd h (by decide) | rfl) (by cases r <;> first | exact absurd h (by decide) | rfl | simp at hr)
      (by cases r <;> first | exact absurd h (by decide) | decide)]
    rw [put8_of_ics h]
    exact ⟨_, _, rfl⟩

/-- A byte read at the watchdog can only draw. -/
theorem regRead8_wdog (r : Reg8) (h : r.device = .wdog) (s : State) :
    ∃ n, (regRead8 r s).2 = { s with draws := n } := by
  have draw : ∀ (x y : Byte), ∃ n, (drawCurrent x y s).2 = { s with draws := n } := by
    intro x y
    rcases drawCurrent_cases x y s with ⟨-, e⟩ | ⟨-, e⟩ | ⟨-, e | e⟩ <;> rw [e] <;> exact ⟨_, rfl⟩
  by_cases hr : r = .wdogCnth ∨ r = .wdogCntl
  · rcases hr with rfl | rfl
    · rw [regRead8_cnth]; exact draw _ _
    · rw [regRead8_cntl]; exact draw _ _
  · rw [regRead8_silent r (by cases r <;> first | exact absurd h (by decide) | rfl | simp at hr)]
    exact ⟨_, rfl⟩

/-- A byte read at the UART can pop the receive buffer, move the line and append to the history. -/
theorem regRead8_uart (r : Reg8) (h : r.device = .uart) (s : State) :
    ∃ q b es, (regRead8 r s).2 = { s with rxbuf := q, uartIrq := b, hist := s.hist ++ es } := by
  by_cases hr : r = .uartS1 ∨ r = .uartD
  · rcases hr with rfl | rfl
    · rw [regRead8_uartS1]
      exact ⟨s.rxbuf, s.uartIrq, [], by simp⟩
    · rw [regRead8_uartD]
      rcases readData_cases s with ⟨-, e⟩ | ⟨-, -, e⟩ | ⟨b, rest, -, -, e⟩ <;> rw [e]
      · exact ⟨_, _, _, rfl⟩
      · rw [recompute_eq]
        exact ⟨_, _, _, state_ext rfl rfl rfl rfl rfl rfl rfl rfl rfl rfl rfl (List.append_assoc _ _ _) rfl rfl rfl rfl⟩
      · rw [recompute_eq]
        exact ⟨_, _, _, rfl⟩
  · rw [regRead8_silent r (by cases r <;> first | exact absurd h (by decide) | rfl | simp at hr)]
    exact ⟨s.rxbuf, s.uartIrq, [], by simp⟩

/-- A byte read at the ICS changes nothing. -/
theorem regRead8_ics (r : Reg8) (h : r.device = .ics) (s : State) : (regRead8 r s).2 = s := by
  by_cases hr : r = .icsS
  · subst hr; rw [regRead8_icsS]
  · rw [regRead8_silent r (by cases r <;> first | exact absurd h (by decide) | rfl | simp at hr)]

/-- The registers a wide access covers are its device's. -/
theorem byteReg_device {dev : Device} {off : Nat} {r : Reg8} (h : byteReg dev off = some r) : r.device = dev := by
  unfold byteReg at h
  split at h <;> cases h <;> rfl

theorem regsAt_device {dev : Device} {off n : Nat} {rs : List Reg8} (h : regsAt dev off n = some rs) :
    ∀ r ∈ rs, r.device = dev := by
  induction n generalizing off rs with
  | zero => cases h; intro r hr; cases hr
  | succ n ih =>
    unfold regsAt at h
    split at h <;> cases h
    rename_i r rs hr hrs
    intro q hq
    rcases List.mem_cons.mp hq with rfl | hq
    · exact byteReg_device hr
    · exact ih hrs q hq

/-- A reflexive and transitive relation kept by every byte access of some registers is kept by the byte sequences of wide
accesses to them. -/
theorem writeSeq_rel {R : State → State → Prop} (refl : ∀ s, R s s) (trans : ∀ {a b c}, R a b → R b c → R a c)
    {rs : List Reg8} (h : ∀ r ∈ rs, ∀ v s, R s (regWrite8 r v s)) (bs : List Byte) (s : State) :
    R s (writeSeq rs bs s) := by
  induction rs generalizing bs s with
  | nil => exact refl s
  | cons r rs ih =>
    cases bs with
    | nil => exact refl s
    | cons b bs =>
      exact trans (h r List.mem_cons_self b s) (ih (fun q hq => h q (List.mem_cons_of_mem r hq)) bs _)

theorem readSeq_rel {R : State → State → Prop} (refl : ∀ s, R s s) (trans : ∀ {a b c}, R a b → R b c → R a c)
    {rs : List Reg8} (h : ∀ r ∈ rs, ∀ s, R s (regRead8 r s).2) (s : State) : R s (readSeq rs s).2 := by
  induction rs generalizing s with
  | nil => exact refl s
  | cons r rs ih => exact trans (h r List.mem_cons_self s) (ih (fun q hq => h q (List.mem_cons_of_mem r hq)) _)

end Sys2Proof.Machine
end

