-- ==== Sys2Proof/Tests/Slice0.lean ====
section
/-! SUPPORT. Tests, with expected values from 95_test_vectors.md and hand calculation from the rules: ill-formed terms refused,
every constructor's descriptor written out bit by bit, single steps, and for every statement with hypotheses a witness that
meets them. -/

namespace Sys2Proof.Tests

open Sys2Proof.Machine Sys2Proof.Claims

/-! Well-formedness: the offset check of each wide access (20_memory.md R56), one past the last legal offset. -/

theorem test_wf_refuses_ill_formed :
    (Instr.rd16Wdog 7).wf = false ∧ (Instr.wr16Wdog 7 0).wf = false ∧ (Instr.rd32Wdog 5).wf = false ∧
    (Instr.wr32Wdog 5 0).wf = false ∧ (Instr.rd16Uart 7).wf = false ∧ (Instr.wr16Uart 7 0).wf = false ∧
    (Instr.rd32Uart 5).wf = false ∧ (Instr.wr32Uart 5 0).wf = false ∧ (Instr.rd16Ics 4).wf = false ∧
    (Instr.wr16Ics 4 0).wf = false ∧ (Instr.rd32Ics 2).wf = false ∧ (Instr.wr32Ics 2 0).wf = false := by
  decide

/-- The offset near the top of its 8 bits does not wrap back into the device. -/
theorem test_wf_offset_does_not_wrap : (Instr.rd16Wdog 0xFF).wf = false ∧ (Instr.rd32Uart 0xFD).wf = false := by
  decide

/-! Decoding: KIND _ DEV _ DIR _ W _ OFF and KIND _ DEV _ EV _ ARG of 30_encoding.md R72 to R75. -/

theorem test_decode_syst :
    decode ⟨0b00_000_0_10_00000000, .none⟩ = .ok .rd32SystCsr ∧
    decode ⟨0b00_000_1_10_00000000, .dword 0x12345678⟩ = .ok (.wr32SystCsr 0x12345678) ∧
    decode ⟨0b00_000_0_10_00000100, .none⟩ = .ok .rd32SystRvr ∧
    decode ⟨0b00_000_1_10_00000100, .dword 0x12345678⟩ = .ok (.wr32SystRvr 0x12345678) ∧
    decode ⟨0b00_000_0_10_00001000, .none⟩ = .ok .rd32SystCvr ∧
    decode ⟨0b00_000_1_10_00001000, .dword 0x12345678⟩ = .ok (.wr32SystCvr 0x12345678) ∧
    decode ⟨0b00_000_0_10_00001100, .none⟩ = .ok .rd32SystCalib ∧
    decode ⟨0b00_000_1_10_00001100, .dword 0x12345678⟩ = .ok (.wr32SystCalib 0x12345678) := by
  decide

theorem test_decode_wdog :
    decode ⟨0b00_001_0_00_00000000, .none⟩ = .ok .rd8WdogCs1 ∧
    decode ⟨0b00_001_1_00_00000000, .byte 0xA5⟩ = .ok (.wr8WdogCs1 0xA5) ∧
    decode ⟨0b00_001_0_00_00000001, .none⟩ = .ok .rd8WdogCs2 ∧
    decode ⟨0b00_001_1_00_00000001, .byte 0xA5⟩ = .ok (.wr8WdogCs2 0xA5) ∧
    decode ⟨0b00_001_0_00_00000010, .none⟩ = .ok .rd8WdogCnth ∧
    decode ⟨0b00_001_1_00_00000010, .byte 0xA5⟩ = .ok (.wr8WdogCnth 0xA5) ∧
    decode ⟨0b00_001_0_00_00000011, .none⟩ = .ok .rd8WdogCntl ∧
    decode ⟨0b00_001_1_00_00000011, .byte 0xA5⟩ = .ok (.wr8WdogCntl 0xA5) ∧
    decode ⟨0b00_001_0_00_00000100, .none⟩ = .ok .rd8WdogTovalh ∧
    decode ⟨0b00_001_1_00_00000100, .byte 0xA5⟩ = .ok (.wr8WdogTovalh 0xA5) ∧
    decode ⟨0b00_001_0_00_00000101, .none⟩ = .ok .rd8WdogTovall ∧
    decode ⟨0b00_001_1_00_00000101, .byte 0xA5⟩ = .ok (.wr8WdogTovall 0xA5) ∧
    decode ⟨0b00_001_0_00_00000110, .none⟩ = .ok .rd8WdogWinh ∧
    decode ⟨0b00_001_1_00_00000110, .byte 0xA5⟩ = .ok (.wr8WdogWinh 0xA5) ∧
    decode ⟨0b00_001_0_00_00000111, .none⟩ = .ok .rd8WdogWinl ∧
    decode ⟨0b00_001_1_00_00000111, .byte 0xA5⟩ = .ok (.wr8WdogWinl 0xA5) := by
  decide

theorem test_decode_uart :
    decode ⟨0b00_010_0_00_00000000, .none⟩ = .ok .rd8UartBdh ∧
    decode ⟨0b00_010_1_00_00000000, .byte 0xA5⟩ = .ok (.wr8UartBdh 0xA5) ∧
    decode ⟨0b00_010_0_00_00000001, .none⟩ = .ok .rd8UartBdl ∧
    decode ⟨0b00_010_1_00_00000001, .byte 0xA5⟩ = .ok (.wr8UartBdl 0xA5) ∧
    decode ⟨0b00_010_0_00_00000010, .none⟩ = .ok .rd8UartC1 ∧
    decode ⟨0b00_010_1_00_00000010, .byte 0xA5⟩ = .ok (.wr8UartC1 0xA5) ∧
    decode ⟨0b00_010_0_00_00000011, .none⟩ = .ok .rd8UartC2 ∧
    decode ⟨0b00_010_1_00_00000011, .byte 0xA5⟩ = .ok (.wr8UartC2 0xA5) ∧
    decode ⟨0b00_010_0_00_00000100, .none⟩ = .ok .rd8UartS1 ∧
    decode ⟨0b00_010_1_00_00000100, .byte 0xA5⟩ = .ok (.wr8UartS1 0xA5) ∧
    decode ⟨0b00_010_0_00_00000101, .none⟩ = .ok .rd8UartS2 ∧
    decode ⟨0b00_010_1_00_00000101, .byte 0xA5⟩ = .ok (.wr8UartS2 0xA5) ∧
    decode ⟨0b00_010_0_00_00000110, .none⟩ = .ok .rd8UartC3 ∧
    decode ⟨0b00_010_1_00_00000110, .byte 0xA5⟩ = .ok (.wr8UartC3 0xA5) ∧
    decode ⟨0b00_010_0_00_00000111, .none⟩ = .ok .rd8UartD ∧
    decode ⟨0b00_010_1_00_00000111, .byte 0xA5⟩ = .ok (.wr8UartD 0xA5) := by
  decide

theorem test_decode_ics :
    decode ⟨0b00_011_0_00_00000000, .none⟩ = .ok .rd8IcsC1 ∧
    decode ⟨0b00_011_1_00_00000000, .byte 0xA5⟩ = .ok (.wr8IcsC1 0xA5) ∧
    decode ⟨0b00_011_0_00_00000001, .none⟩ = .ok .rd8IcsC2 ∧
    decode ⟨0b00_011_1_00_00000001, .byte 0xA5⟩ = .ok (.wr8IcsC2 0xA5) ∧
    decode ⟨0b00_011_0_00_00000010, .none⟩ = .ok .rd8IcsC3 ∧
    decode ⟨0b00_011_1_00_00000010, .byte 0xA5⟩ = .ok (.wr8IcsC3 0xA5) ∧
    decode ⟨0b00_011_0_00_00000011, .none⟩ = .ok .rd8IcsC4 ∧
    decode ⟨0b00_011_1_00_00000011, .byte 0xA5⟩ = .ok (.wr8IcsC4 0xA5) ∧
    decode ⟨0b00_011_0_00_00000100, .none⟩ = .ok .rd8IcsS ∧
    decode ⟨0b00_011_1_00_00000100, .byte 0xA5⟩ = .ok (.wr8IcsS 0xA5) := by
  decide

theorem test_decode_wide :
    decode ⟨0b00_001_0_01_00000100, .none⟩ = .ok (.rd16Wdog 4) ∧
    decode ⟨0b00_001_1_01_00000100, .word 0xBEEF⟩ = .ok (.wr16Wdog 4 0xBEEF) ∧
    decode ⟨0b00_001_0_10_00000100, .none⟩ = .ok (.rd32Wdog 4) ∧
    decode ⟨0b00_001_1_10_00000100, .dword 0x12345678⟩ = .ok (.wr32Wdog 4 0x12345678) ∧
    decode ⟨0b00_010_0_01_00000011, .none⟩ = .ok (.rd16Uart 3) ∧
    decode ⟨0b00_010_1_01_00000011, .word 0xBEEF⟩ = .ok (.wr16Uart 3 0xBEEF) ∧
    decode ⟨0b00_010_0_10_00000100, .none⟩ = .ok (.rd32Uart 4) ∧
    decode ⟨0b00_010_1_10_00000100, .dword 0x12345678⟩ = .ok (.wr32Uart 4 0x12345678) ∧
    decode ⟨0b00_011_0_01_00000001, .none⟩ = .ok (.rd16Ics 1) ∧
    decode ⟨0b00_011_1_01_00000001, .word 0xBEEF⟩ = .ok (.wr16Ics 1 0xBEEF) ∧
    decode ⟨0b00_011_0_10_00000001, .none⟩ = .ok (.rd32Ics 1) ∧
    decode ⟨0b00_011_1_10_00000001, .dword 0x12345678⟩ = .ok (.wr32Ics 1 0x12345678) := by
  decide

theorem test_decode_events :
    decode ⟨0b01_000_000_00000000, .none⟩ = .ok .tickSyst ∧
    decode ⟨0b01_001_000_00000000, .none⟩ = .ok .tickWdog ∧
    decode ⟨0b01_000_001_00000000, .none⟩ = .ok .resetSyst ∧
    decode ⟨0b01_001_001_00000000, .none⟩ = .ok .resetWdog ∧
    decode ⟨0b01_010_001_00000000, .none⟩ = .ok .resetUart ∧
    decode ⟨0b01_011_001_00000000, .none⟩ = .ok .resetIcs ∧
    decode ⟨0b01_111_001_00000000, .none⟩ = .ok .machineReset ∧
    decode ⟨0b01_010_010_01000001, .none⟩ = .ok (.rxpush 0x41) := by
  decide


/-- Refused descriptors (vectors E9 to E24). -/
theorem test_decode_refuses :
    decodeDesc 0b00_000_0_00_00000000 = .error .badWidth ∧ decodeDesc 0b00_000_0_10_00000010 = .error .badWidth ∧
    decodeDesc 0b00_000_0_10_00010000 = .error .outOfRange ∧ decodeDesc 0b00_001_0_00_00001000 = .error .outOfRange ∧
    decodeDesc 0b00_001_0_01_00000111 = .error .outOfRange ∧ decodeDesc 0b00_011_0_10_00000010 = .error .outOfRange ∧
    decodeDesc 0b00_011_0_01_00000100 = .error .outOfRange ∧ decodeDesc 0b00_000_0_11_00000000 = .error .illegal ∧
    decodeDesc 0b00_100_0_00_00000000 = .error .illegal ∧ decodeDesc 0b00_111_0_00_00000000 = .error .illegal ∧
    decodeDesc 0b10_000_0_00_00000000 = .error .illegal ∧ decodeDesc 0b01_000_000_00000001 = .error .illegal ∧
    decodeDesc 0b01_010_000_00000000 = .error .illegal ∧ decodeDesc 0b01_111_000_00000000 = .error .illegal ∧
    decodeDesc 0b01_001_011_00000000 = .error .illegal ∧ decodeDesc 0b01_111_010_00000000 = .error .illegal := by
  decide

/-- Operand bits lie above the descriptor (log 14); the bits above `nbits` are 0. -/
theorem test_table_word :
    decodeTableWord 16 0x1007 = some .rd8UartD ∧ decodeTableWord 24 0x41_1407 = some (.wr8UartD 0x41) ∧
    decodeTableWord 16 0x41_1407 = some (.wr8UartD 0) ∧ decodeTableWord 16 0x0300 = none := by
  decide

/-! Single steps. -/

/-- What a transaction leaves in one observation; none where it has no step. -/
def after {α : Type} (i : Instr) (s : State) (f : State → α) : Option α :=
  match exec i s with
  | .next t => some (f t)
  | _ => none

/-- Construction with the limits 3 and 2 of the timer vectors. -/
def base : State :=
  .construct { defaultParams with systLimit0 := 3, wdogLimit0 := 2, currentRead := .stored }

/-- `base` with parameters changed. -/
def withCfg (f : Params → Params) : State :=
  .construct (f base.cfg)

/-- `base` with UART C2, receive buffer and line as given. -/
def uartState (c2 : Byte) (rx : List Byte) (line : Bool) : State :=
  { base with uart := { base.uart with c2 := c2 }, rxbuf := rx, uartIrq := line }

/-- The first step after reset runs the transaction `withFetchWord` offers. -/
theorem test_first_step :
    ∃ t, step (State.reset.withFetchWord 24 0xC0_0C00) = .next t ∧ t.wdog.cs1 = 0xC0 ∧ t.pending = [] :=
  ⟨_, rfl, by decide, by decide⟩

/-- A read that draws (log 4) also completes as the first step. -/
theorem test_first_step_draws : ∃ t, step (State.reset.withFetchWord 16 0x0208) = .next t ∧ t.draws = 1 :=
  ⟨_, rfl, rfl⟩

/-- S9: the watchdog's construction values. -/
theorem test_reset_watchdog :
    after .rd8WdogCs1 .reset (·.rdata) = some (.byte 0x80) ∧ after .rd8WdogCs2 .reset (·.rdata) = some (.byte 0x01) := by
  decide

/-- R331 on a few other registers. -/
theorem test_reset_others :
    after .rd8UartS1 .reset (·.rdata) = some (.byte 0xC0) ∧ after .rd8UartBdl .reset (·.rdata) = some (.byte 0x04) ∧
    after .rd8IcsC1 .reset (·.rdata) = some (.byte 0x04) ∧ after .rd8IcsC2 .reset (·.rdata) = some (.byte 0x20) ∧
    after .rd8IcsS .reset (·.rdata) = some (.byte 0x10) ∧ icsMode .reset = .fei := by
  decide

/-- F-V1, F-V2, F-V3, F-V7, F-V8, F-V9: what is stored of a written byte. -/
theorem test_stored_bits :
    after (.wr8IcsC2 0x0F) base (·.ics.c2) = some 0x00 ∧ after (.wr8UartBdh 0xFF) base (·.uart.bdh) = some 0xDF ∧
    after (.wr8WdogCs2 0xFF) base (·.wdog.cs2) = some 0xD3 ∧ after (.wr8UartC3 0xFF) base (·.uart.c3) = some 0x7F ∧
    after (.wr8UartS2 0xFF) base (·.uart.s2) = some 0x1E ∧ after (.wr8IcsC4 0xFF) base (·.ics.c4) = some 0xA1 := by
  decide

/-- F-V5, F-V10: read-only registers. -/
theorem test_read_only_writes :
    after (.wr8UartS1 0x00) base (fun t => decide (t = base)) = some true ∧
    after (.wr8IcsS 0xFF) base (fun t => decide (t = base)) = some true := by
  decide

/-- F-V6: a tagged window byte. -/
theorem test_tagged_window :
    after (.wr8WdogWinh 0x12) (withCfg fun p => { p with tagged := [.wdogWinh] }) (fun t => (t.wdog.winh, t.hist)) =
      some (0x00, [.log .taggedWrite]) := by
  decide

/-- ST1, ST2: CSR. -/
theorem test_csr_write :
    after (.wr32SystCsr 0xFFFFFFFF) base (·.syst.csr) = some 7 ∧
    after (.wr32SystCsr 0x00010000) base (·.syst.csr) = some 0 := by
  decide

/-- ST3 and T8: RVR with `P_RELOAD_SETS_LIMIT` false and true. -/
theorem test_rvr_write :
    after (.wr32SystRvr 0xFFFFFFFF) base (fun t => (t.syst.rvr, t.tS.limit)) = some (0x00FFFFFF, 3) ∧
    after (.wr32SystRvr 1) (withCfg fun p => { p with reloadSetsLimit := true }) (·.tS.limit) = some 1 := by
  decide

/-- ST4: a CVR write does not move the count. -/
theorem test_cvr_write :
    after (.wr32SystCvr 0x10) { base with tS := ⟨2, 3⟩ } (fun t => (t.syst.cvr, t.tS)) = some (0x10, ⟨2, 3⟩) := by
  decide

/-- ST5, ST6: the live value, truncated to 24 bits. -/
theorem test_cvr_live :
    after .rd32SystCvr { withCfg (fun p => { p with currentRead := .live }) with tS := ⟨1, 3⟩ } (·.rdata) =
      some (.dword 2) ∧
    after .rd32SystCvr (withCfg fun p => { p with currentRead := .live, systLimit0 := 0x01000005 }) (·.rdata) =
      some (.dword 5) := by
  decide

/-- ST8: CALIB. -/
theorem test_calib :
    after .rd32SystCalib (withCfg fun p => { p with systCalib := 0xC0000123 }) (·.rdata) = some (.dword 0xC0000123) ∧
    after (.wr32SystCalib 0x12345678) base (fun t => decide (t = base)) = some true := by
  decide

/-- WD2: the live counter bytes. -/
theorem test_counter_live :
    after (.rd16Wdog 2) { withCfg (fun p => { p with currentRead := .live }) with tW := ⟨258, 1000⟩ } (·.rdata) =
      some (.word 0x0102) := by
  decide

/-- W12, first half: the limit after the high byte alone. -/
theorem test_timeout_high_byte :
    after (.wr8WdogTovalh 0x03) (withCfg fun p => { p with reloadSetsLimit := true }) (·.tW.limit) = some 0x0304 := by
  decide

/-- W1, W2, W3, W10, W11, W12: wide writes. -/
theorem test_wide_writes :
    after (.wr16Wdog 4 0xBEEF) base (fun t => (t.wdog.tovalh, t.wdog.tovall)) = some (0xBE, 0xEF) ∧
    after (.wr32Wdog 4 0x12345678) base (fun t => (t.wdog.tovalh, t.wdog.tovall, t.wdog.winh, t.wdog.winl)) =
      some (0x12, 0x34, 0x56, 0x78) ∧
    after (.wr16Wdog 1 0xA5C3) base (fun t => (t.wdog.cs2, t.wdog.cnth)) = some (0x81, 0xC3) ∧
    after (.wr16Ics 0 0x8020) base (fun t => (t.ics.c1, t.ics.c2, icsMode t)) = some (0x80, 0x20, .fbe) ∧
    after (.wr32Wdog 0 0x00010000) base (fun t => (t.wdog.cs1, t.wdog.cs2)) = some (0x00, 0x01) ∧
    after (.wr16Wdog 4 0x0300) (withCfg fun p => { p with reloadSetsLimit := true }) (·.tW.limit) = some 0x0300 := by
  decide

/-- W4, W5, W8, W9: wide reads. -/
theorem test_wide_reads :
    after (.rd32Wdog 0) base (·.rdata) = some (.dword 0x80010000) ∧
    after (.rd16Uart 3) base (·.rdata) = some (.word 0x00C0) ∧
    after (.rd32Uart 4) (uartState 0x04 [0x7A] false) (fun t => (t.rdata, t.rxbuf)) = some (.dword 0xE000007A, []) ∧
    after (.rd32Uart 4) base (fun t => (t.rdata, t.hist)) = some (.dword 0xC0000000, [.log .rxDisabled]) := by
  decide

/-- W6, P3 step 6: a wide write that reaches D sends. -/
theorem test_wide_write_reaches_data :
    after (.wr16Uart 6 0x0041) (uartState 0x08 [] false) (·.hist) = some [.txByte 0x41] ∧
    after (.wr32Uart 4 0x00000041) (uartState 0x08 [] false) (·.hist) = some [.txByte 0x41] := by
  decide

/-- P3 step 9: `0x80200000 | RV_ICS_C3 << 8`, here with C3 0x5A. -/
theorem test_wide_read_ics :
    after (.rd32Ics 0) { base with ics := ⟨0x80, 0x20, 0x5A, 0⟩ } (·.rdata) = some (.dword 0x80205A00) ∧
    after (.rd16Ics 3) base (·.rdata) = some (.word 0x0010) ∧
    after (.wr32Ics 1 0x30112233) base (fun t => (t.ics.c2, t.ics.c3, t.ics.c4)) = some (0x30, 0x11, 0x20) := by
  decide

/-- R98: a wide access beyond the size. -/
theorem test_wide_out_of_range :
    exec (.rd16Uart 7) base = .refused .outOfRange :=
  rfl

/-- T1, T2: the third tick of SYST with TICKINT 0 and 1. -/
theorem test_syst_expiry :
    after .tickSyst { base with syst := { base.syst with csr := 1 }, tS := ⟨2, 3⟩ }
      (fun t => (t.tS.count, t.resetPending, t.hist)) = some (0, true, [.resetRequest .syst]) ∧
    after .tickSyst { base with syst := { base.syst with csr := 3 }, tS := ⟨2, 3⟩ } (·.hist) =
      some [.irqPulse .syst, .resetRequest .syst] := by
  decide

/-- T3, T6: disabled after reset; a zero limit while Running. -/
theorem test_syst_disabled_and_zero_limit :
    after .tickSyst base (·.tS.count) = some 0 ∧
    after .tickSyst { base with syst := { base.syst with csr := 1 }, tS := ⟨0, 0⟩ } (fun t => (t.fault, t.tS.count)) =
      some (some .unmodelledLimitZero, 0) := by
  decide

/-- T10, T11: the watchdog's first and second tick. -/
theorem test_wdog_ticks :
    after .tickWdog base (·.tW.count) = some 1 ∧
    after .tickWdog { base with wdog := { base.wdog with cs1 := 0xC0 }, tW := ⟨1, 2⟩ } (fun t => (t.hist, t.tW.count)) =
      some ([.irqPulse .wdog, .resetRequest .wdog], 0) := by
  decide

/-- U-F1, U-F2, U-F3: D writes. -/
theorem test_uart_write :
    after (.wr8UartD 0x41) base (fun t => (t.txq, t.hist)) = some ([], [.log .txDisabled]) ∧
    after (.wr8UartD 0x41) (uartState 0x08 [] false) (fun t => (t.txq, t.hist)) = some ([], [.txByte 0x41]) ∧
    after (.wr8UartD 0x63) { uartState 0x08 [] false with cfg := { base.cfg with txwm := 3 }, txq := [0x61, 0x62] }
      (fun t => (t.txq, t.hist)) = some ([], [.txByte 0x61, .txByte 0x62, .txByte 0x63]) := by
  decide

/-- U-D1, U-D2, U-D3, U-D4: D reads. -/
theorem test_uart_read :
    after .rd8UartD base (fun t => (t.rdata, t.hist)) = some (.byte 0, [.log .rxDisabled]) ∧
    after .rd8UartD (uartState 0x04 [] false) (fun t => (t.rdata, t.hist)) = some (.byte 0, [.log .rxEmpty]) ∧
    after .rd8UartD (uartState 0x04 [0x00, 0x41] false) (fun t => (t.rdata, t.rxbuf, t.hist)) =
      some (.byte 0, [0x41], []) ∧
    after .rd8UartD (uartState 0x24 [0x41] true) (fun t => (t.rdata, t.hist)) =
      some (.byte 0x41, [.irqLevel false]) := by
  decide

/-- U-S2, U-S3, U-S4 and U-F3's status: S1. -/
theorem test_uart_status :
    after .rd8UartS1 (uartState 0 [0x41] false) (·.rdata) = some (.byte 0xE0) ∧
    after .rd8UartS1 (withCfg fun p => { p with rxwm := 0 }) (·.rdata) = some (.byte 0xE0) ∧
    after .rd8UartS1 { uartState 0 [0x41] false with cfg := { base.cfg with rxwm := 2 } } (·.rdata) =
      some (.byte 0xC0) ∧
    after .rd8UartS1 { uartState 8 [] false with cfg := { base.cfg with txwm := 3 }, txq := [0x61, 0x62] } (·.rdata) =
      some (.byte 0x80) := by
  decide

/-- U-I1 to U-I32: the rows of the line table whose line is true, by C2 value and occupancy. -/
theorem test_uart_line :
    ([0x00, 0x20, 0x04, 0x24, 0x80, 0xA0, 0x84, 0xA4, 0x08, 0x28, 0x0C, 0x2C, 0x88, 0xA8, 0x8C, 0xAC].filter fun c =>
      decide (after (.wr8UartC2 c) base (·.uartIrq) = some true)) = [0x88, 0xA8, 0x8C, 0xAC] ∧
    ([0x00, 0x20, 0x04, 0x24, 0x80, 0xA0, 0x84, 0xA4, 0x08, 0x28, 0x0C, 0x2C, 0x88, 0xA8, 0x8C, 0xAC].filter fun c =>
      decide (after (.wr8UartC2 c) (uartState 0 [0x41] false) (·.uartIrq) = some true)) =
        [0x24, 0xA4, 0x2C, 0x88, 0xA8, 0x8C, 0xAC] := by
  decide

/-- U-D5, U-D6: an arrival with and without recomputation. -/
theorem test_rxpush :
    after (.rxpush 0x41) { uartState 0x24 [] false with cfg := { base.cfg with rxpushRecompute := true } } (·.hist) =
      some [.irqLevel true] ∧
    after (.rxpush 0x41) (uartState 0x24 [] false) (fun t => (t.rxbuf, t.uartIrq, t.hist)) = some ([0x41], false, []) := by
  decide

/-- U-X1, U-F7: RESET.UART. -/
theorem test_reset_uart :
    after .resetUart { uartState 0x88 [0x41] true with txq := [0x61] }
      (fun t => (t.uart.c2, t.txq, t.rxbuf, t.uartIrq, t.hist)) = some (0, [], [0x41], false, [.irqLevel false]) := by
  decide

/-- H1, H2, H3: the other device resets. -/
theorem test_device_resets :
    after .resetSyst { base with syst := { base.syst with csr := 3 }, tS := ⟨2, 7⟩ } (fun t => (t.syst.csr, t.tS)) =
      some (0, ⟨0, 3⟩) ∧
    after .resetWdog { base with wdog := ⟨0, 0, 1, 2, 3, 5, 6, 7⟩, tW := ⟨1, 9⟩ } (fun t => (t.wdog, t.tW)) =
      some (⟨0x80, 0x01, 0, 0, 0, 0x04, 0, 0⟩, ⟨0, 2⟩) ∧
    after .resetIcs { base with ics := ⟨0xC0, 0, 1, 1⟩ } (fun t => (t.ics.c1, t.ics.c2, icsMode t)) =
      some (0x04, 0x20, .fei) := by
  decide

/-- H4: MACHINE_RESET. -/
theorem test_machine_reset :
    after .machineReset { uartState 0x24 [1, 2] true with resetPending := true, hist := [.txByte 9] }
      (fun t => (t.rxbuf, t.uart.c2, t.uartIrq, t.resetPending, t.hist)) =
        some ([], 0, false, false, [.txByte 9, .irqLevel false]) := by
  decide

/-- M1 to M16: the ICS mode table, by CLKS, IREFS, LP. -/
theorem test_ics_modes :
    ([0, 1, 2, 3].map fun c => (icsModeOf c false false, icsModeOf c false true, icsModeOf c true false,
      icsModeOf c true true)) =
      [(.fee, .fee, .fei, .fei), (.fbi, .stop, .stop, .fbilp), (.fbe, .fbelp, .stop, .stop),
        (.stop, .stop, .stop, .stop)] := by
  decide

/-- Byte writes the vectors above do not reach, each with a value that shows every field. -/
theorem test_other_byte_writes :
    after (.wr8WdogCs1 0xC1) base (·.wdog.cs1) = some 0xC1 ∧ after (.wr8WdogCntl 0x5A) base (·.wdog.cntl) = some 0x5A ∧
    after (.wr8WdogTovall 0x5A) base (·.wdog.tovall) = some 0x5A ∧ after (.wr8WdogWinl 0x5A) base (·.wdog.winl) = some 0x5A ∧
    after (.wr8UartBdl 0x5A) base (·.uart.bdl) = some 0x5A ∧ after (.wr8UartC1 0x5A) base (·.uart.c1) = some 0x5A ∧
    after (.wr8IcsC1 0x5A) base (·.ics.c1) = some 0x5A ∧ after (.wr8IcsC3 0x5A) base (·.ics.c3) = some 0x5A ∧
    after (.wr8WdogCnth 0x5A) base (·.wdog.cnth) = some 0x5A := by
  decide

/-! Outputs. -/

/-- R53, R311 with the presumed wiring (log 10): the bus address of UART D, and where the events go. -/
theorem test_wiring :
    busAddress defaultParams .uart 7 = 0x4006A007 ∧ irqInput defaultParams (.irqPulse .wdog) = some 28 ∧
    irqInput defaultParams (.resetRequest .wdog) = none := by
  decide

/-! Witnesses: for each statement with hypotheses, a state and operands that meet all of them together, one per clause. -/

/-- `base` with everything away from its reset value: used where a statement holds for every state. -/
def busy : State :=
  { base with
    syst := ⟨3, 0x123456, 0x10⟩, wdog := ⟨0xC0, 0x41, 1, 2, 0, 4, 9, 8⟩, uart := ⟨0, 4, 0, 0xAC, 0, 0, 0x55⟩
    tS := ⟨2, 3⟩, tW := ⟨1, 2⟩, rxbuf := [0x41], uartIrq := true, hist := [.irqLevel true]
    pending := [⟨0x4000, .none⟩, ⟨0x0900, .none⟩] }

theorem busy_clean : RegsClean busy :=
  ⟨fun r => by cases r <;> decide, fun r => by cases r <;> decide⟩

theorem witness_EncodedTransactionDecodesToItself :
    (Instr.rd16Wdog 6).wf = true ∧ (Instr.wr32Ics 1 0x12345678).wf = true ∧ (Instr.rxpush 0xFF).wf = true := by
  decide

theorem witness_DecodedTransactionEncodesBack :
    decode ⟨0x0D06, .word 0xBEEF⟩ = .ok (.wr16Wdog 6 0xBEEF) ∧ decode ⟨0x52FF, .none⟩ = .ok (.rxpush 0xFF) := by
  decide

theorem witness_RefusalReasonsInOrder :
    IllegalFields 0xC000 ∧
    (¬ IllegalFields 0x000F ∧ ¬ ListedDescriptor 0x000F ∧ descField 0x000F 11 3 = 0) ∧
    (¬ IllegalFields 0x0010 ∧ ¬ ListedDescriptor 0x0010 ∧ descField 0x0010 11 3 = 0) ∧
    (¬ IllegalFields 0x1805 ∧ ¬ ListedDescriptor 0x1805 ∧ descField 0x1805 11 3 ≠ 0) ∧
    ListedDescriptor 0x1804 ∧
    (∃ t, exec .tickSyst { busy with tS := ⟨0, 0⟩ } = .next t ∧ busy.fault = none ∧ t.fault ≠ none) := by
  simp only [IllegalFields, ListedDescriptor]
  refine ⟨?_, ⟨?_, ?_, ?_⟩, ⟨?_, ?_, ?_⟩, ⟨?_, ?_, ?_⟩, ?_, _, rfl, rfl, by decide⟩ <;> decide

theorem witness_OperandMustFitDescriptor :
    decodeDesc 0x0D06 = .ok (.access .wdog true .word 6) ∧
    OperandFits (.access .wdog true .word 6) (.word 0) ∧ ¬ OperandFits (.access .wdog true .word 6) (.byte 0) :=
  ⟨by decide, trivial, id⟩

theorem witness_StepRunsTheDecodedTransaction :
    (busy.fault = none ∧ busy.pending = ⟨0x4000, .none⟩ :: [⟨0x0900, .none⟩] ∧ decode ⟨0x4000, .none⟩ = .ok .tickSyst) ∧
    (base.fault = none ∧ base.pending = []) ∧ decodeTableWord 32 0xBEEF_0D06 = some (.wr16Wdog 6 0xBEEF) := by
  decide

theorem witness_RefusedTransactionHasNoStep :
    base.fault = none ∧ decode ⟨0xC000, .none⟩ = .error .illegal ∧ decode ⟨0x000F, .none⟩ = .error .badWidth ∧
    decode ⟨0x0010, .none⟩ = .error .outOfRange ∧ decode ⟨0x1805, .none⟩ = .error .outOfRange ∧
    decode ⟨0x0C00, .none⟩ = .error .operandMismatch := by
  decide

theorem witness_EveryTransactionIsEnabledUntilAFault :
    (Instr.rd32Uart 4).wf = true ∧
    (busy.fault = none ∧ busy.pending = ⟨0x4000, .none⟩ :: [⟨0x0900, .none⟩] ∧ decode ⟨0x4000, .none⟩ = .ok .tickSyst) ∧
    (takeFault .unmodelledLimitZero busy).fault = some .unmodelledLimitZero := by
  decide

theorem witness_StepKeepsRegistersClean : RegsClean busy ∧ ∃ t, step busy = .next t :=
  ⟨busy_clean, _, rfl⟩

theorem witness_StepKeepsTransmitQueueBounded :
    (TxqBounded busy ∧ ∃ t, step busy = .next t) ∧
    (TxqBounded { busy with cfg := { busy.cfg with txwm := 1 } } ∧ (1 : Nat) ≤ 1) ∧
    TxqBounded { busy with cfg := { busy.cfg with txwm := 3 }, txq := [0x61, 0x62] } :=
  ⟨⟨by unfold TxqBounded; decide, _, rfl⟩, ⟨by unfold TxqBounded; decide, Nat.le_refl 1⟩, by unfold TxqBounded; decide⟩

theorem witness_StepKeepsCountsBelowLimits : CountsBelowLimits busy ∧ ∃ t, step busy = .next t :=
  ⟨by unfold CountsBelowLimits; decide, _, rfl⟩

theorem witness_StepKeepsLineMatchingHistory : LineMatchesHistory busy ∧ ∃ t, step busy = .next t :=
  ⟨by unfold LineMatchesHistory; decide, _, rfl⟩

theorem witness_StepKeepsParameters : ∃ t, step busy = .next t :=
  ⟨_, rfl⟩

theorem witness_HistoryOnlyGrows : ∃ t, step busy = .next t ∧ t.hist ≠ busy.hist :=
  ⟨_, rfl, by decide⟩

theorem witness_RunWithinTheContractNeverStops : RunsOn busy := by
  refine ⟨rfl, ?_, by unfold LimitsPositive; decide⟩
  intro t ht
  simp only [busy, List.mem_cons, List.not_mem_nil, or_false] at ht
  rcases ht with rfl | rfl
  · exact ⟨.tickSyst, by decide⟩
  · exact ⟨.rd16Wdog 0, by decide⟩

theorem witness_TransactionChangesItsDeviceOnly :
    (∃ t, exec .tickSyst busy = .next t ∧ descField (encode .tickSyst).desc 11 3 = 0) ∧
    (∃ t, exec (.wr16Wdog 4 0) busy = .next t ∧ descField (encode (.wr16Wdog 4 0)).desc 11 3 = 1) ∧
    (∃ t, exec .rd8UartD busy = .next t ∧ descField (encode .rd8UartD).desc 11 3 = 2) ∧
    (∃ t, exec .resetIcs busy = .next t ∧ descField (encode .resetIcs).desc 11 3 = 3) ∧
    (∃ t, exec .machineReset busy = .next t ∧ descField (encode .machineReset).desc 11 3 = 7) :=
  ⟨⟨_, rfl, by decide⟩, ⟨_, rfl, by decide⟩, ⟨_, rfl, by decide⟩, ⟨_, rfl, by decide⟩, ⟨_, rfl, by decide⟩⟩

theorem witness_SoftwareCannotRestartATimer :
    (∃ t, exec (.wr32SystCvr 0) busy = .next t) ∧ (∃ t, exec (.wr8WdogCnth 0) busy = .next t) ∧
    (∃ t, exec .tickSyst busy = .next t ∧ t.tS.count = 0) ∧ (∃ t, exec .tickWdog busy = .next t ∧ t.tW.count = 0) :=
  ⟨⟨_, rfl⟩, ⟨_, rfl⟩, ⟨_, rfl, by decide⟩, ⟨_, rfl, by decide⟩⟩

theorem witness_ResetPendingFromExpiryToMachineReset :
    (∃ t, exec .tickSyst busy = .next t ∧ busy.resetPending = false ∧ t.resetPending = true) ∧
    (∃ t, exec .tickWdog busy = .next t ∧ busy.resetPending = false ∧ t.resetPending = true) ∧
    (∃ t, exec .machineReset { busy with resetPending := true } = .next t ∧ t.resetPending = false) :=
  ⟨⟨_, rfl, by decide, by decide⟩, ⟨_, rfl, by decide, by decide⟩, ⟨_, rfl, by decide⟩⟩

theorem witness_SystCsrReadGivesItsFields :
    (3#3 : BitVec 3) = BitVec.ofBool (busy.syst.csr.getLsbD 2 && !busy.cfg.tagged.contains .systClksource) ++
      BitVec.ofBool (busy.syst.csr.getLsbD 1) ++ BitVec.ofBool (busy.syst.csr.getLsbD 0) := by
  decide

/-- RegsClean alone: the writes of SYST, of the watchdog's control and window bytes, of the UART's and the ICS's registers. -/
theorem witness_SystCsrWriteStoresItsFields : RegsClean busy := busy_clean
theorem witness_SystReloadWriteAndRead : RegsClean busy := busy_clean
theorem witness_SystCurrentWriteStoresOnly : RegsClean busy := busy_clean
theorem witness_WdogControlReadAndWrite : RegsClean busy := busy_clean
theorem witness_UartStorageReadAndWrite : RegsClean busy := busy_clean
theorem witness_UartControl2ReadAndWrite : RegsClean busy := busy_clean
theorem witness_IcsRegistersReadAndWrite : RegsClean busy := busy_clean

theorem witness_SystCurrentReadIsStoredOrLive :
    busy.tS.count ≤ busy.tS.limit ∧ (⟨3, 3⟩ : Timer).count ≤ (⟨3, 3⟩ : Timer).limit := by
  decide

theorem witness_WritingOnesReadsBackTheFieldBits : busy.cfg.tagged = [] := rfl

theorem witness_ReservedBitsReadZeroAndAreDropped :
    (byteRead .wdog 0 = some .rd8WdogCs1 ∧ byteReg .wdog 0 = some .wdogCs1) ∧
    (byteRead .uart 7 = some .rd8UartD ∧ byteReg .uart 7 = some .uartD) ∧
    (byteRead .ics 4 = some .rd8IcsS ∧ byteReg .ics 4 = some .icsS) ∧
    (systRead 0 = some .rd32SystCsr ∧ systReg 0 = some .csr) ∧ (systRead 12 = some .rd32SystCalib ∧ systReg 12 = some .calib) ∧
    (byteReg .wdog 1 = some .wdogCs2 ∧ byteWrite .wdog 1 0x2D = some (.wr8WdogCs2 0x2D) ∧
      byteWrite .wdog 1 0x01 = some (.wr8WdogCs2 0x01) ∧
      (0x2D : Byte) &&& coveredMask 8 (fields8 .wdogCs2) = 0x01 &&& coveredMask 8 (fields8 .wdogCs2)) ∧
    (systReg 4 = some .rvr ∧ systWrite 4 0xFF000001 = some (.wr32SystRvr 0xFF000001) ∧
      systWrite 4 1 = some (.wr32SystRvr 1) ∧
      (0xFF000001 : DWord) &&& coveredMask 32 (fields32 .rvr) = 1 &&& coveredMask 32 (fields32 .rvr)) := by
  decide

/-- `busy` with two tagged fields. -/
def tagged : State :=
  { busy with cfg := { busy.cfg with tagged := [.cs1Stop, .wdogWinh] } }

theorem witness_TaggedFieldReadsZeroAndIsLogged :
    (byteReg .wdog 0 = some .wdogCs1 ∧ inertField .cs1Stop 0 1 ∈ fields8 .wdogCs1 ∧
      (inertField .cs1Stop 0 1).inert = true ∧ (inertField .cs1Stop 0 1).name ∈ tagged.cfg.tagged) ∧
    (byteReg .wdog 6 = some .wdogWinh ∧ inertField .wdogWinh 0 8 ∈ fields8 .wdogWinh ∧
      (inertField .wdogWinh 0 8).inert = true ∧ (inertField .wdogWinh 0 8).name ∈ tagged.cfg.tagged) := by
  decide

theorem tagged_clean : RegsClean { tagged with wdog := { tagged.wdog with winh := 0 } } :=
  ⟨fun r => by cases r <;> decide, fun r => by cases r <;> decide⟩

theorem witness_WdogWindowIsStorage :
    (RegsClean busy ∧ busy.cfg.tagged.contains .wdogWinh = false) ∧
    (RegsClean { tagged with wdog := { tagged.wdog with winh := 0 } } ∧ tagged.cfg.tagged.contains .wdogWinh = true) :=
  ⟨⟨busy_clean, by decide⟩, tagged_clean, by decide⟩

theorem witness_UartStatus1ReadAndWrite :
    (0xE0#8 : Byte) = BitVec.ofBool (decide (busy.txq.length ≤ busy.cfg.txwm)) ++ BitVec.ofBool (decide (busy.txq = [])) ++
      BitVec.ofBool (decide (busy.rxbuf.length ≥ busy.cfg.rxwm)) ++ 0#5 := by
  decide

/-- UART with TE, a watermark of 3 and two bytes queued: a third is the boundary of the flush. -/
def sending : State :=
  { uartState 0x08 [] false with cfg := { base.cfg with txwm := 3 }, txq := [0x61, 0x62] }

theorem witness_UartDataWrite :
    base.uart.c2.getLsbD 3 = false ∧
    ({ sending with txq := [0x61] }.uart.c2.getLsbD 3 = true ∧
      { sending with txq := [0x61] }.txq.length + 1 < { sending with txq := [0x61] }.cfg.txwm) ∧
    (sending.uart.c2.getLsbD 3 = true ∧ sending.cfg.txwm ≤ sending.txq.length + 1) := by
  decide

theorem witness_UartDataRead :
    base.uart.c2.getLsbD 2 = false ∧
    ((uartState 0x04 [] false).uart.c2.getLsbD 2 = true ∧ (uartState 0x04 [] false).rxbuf = []) ∧
    ((uartState 0x24 [0x41] true).uart.c2.getLsbD 2 = true ∧ (uartState 0x24 [0x41] true).rxbuf = 0x41 :: []) := by
  decide

theorem witness_LineFollowsFormulaAtRecomputation :
    (∃ t, exec (.wr8UartC2 0x88) base = .next t) ∧
    (sending.uart.c2.getLsbD 3 = true ∧ ∃ t, exec (.wr8UartD 0x63) sending = .next t) ∧
    ((uartState 0x24 [0x41] true).uart.c2.getLsbD 2 = true ∧
      ∃ t, exec .rd8UartD (uartState 0x24 [0x41] true) = .next t) ∧
    (∃ t, exec .resetUart busy = .next t) ∧ (∃ t, exec .machineReset busy = .next t) ∧
    ((withCfg fun p => { p with rxpushRecompute := true }).cfg.rxpushRecompute = true ∧
      ∃ t, exec (.rxpush 1) (withCfg fun p => { p with rxpushRecompute := true }) = .next t) :=
  ⟨⟨_, rfl⟩, ⟨by decide, _, rfl⟩, ⟨by decide, _, rfl⟩, ⟨_, rfl⟩, ⟨_, rfl⟩, ⟨by decide, _, rfl⟩⟩

theorem witness_UartSendsWrittenBytesInOrder :
    ({ sending with txq := [] }.uart.c2.getLsbD 3 = true ∧ { sending with txq := [] }.txq = []) ∧
    base.uart.c2.getLsbD 3 = false := by
  decide

theorem witness_StatusReadBeforeDataGuaranteesAByte :
    1 ≤ (uartState 0x04 [0x41] false).cfg.rxwm ∧ (uartState 0x04 [0x41] false).uart.c2.getLsbD 2 = true ∧
    ∃ t, exec .rd8UartS1 (uartState 0x04 [0x41] false) = .next t ∧ t.rdata = .byte 0xE0 ∧
      (0xE0#8 : Byte).getLsbD 5 = true :=
  ⟨by decide, by decide, _, rfl, by decide, by decide⟩

theorem witness_IcsModeFollowsItsTable :
    ∃ t u, exec (.wr8IcsC1 0x44) busy = .next t ∧ exec (.wr8IcsC2 0x10) t = .next u ∧ icsMode u = .fbilp :=
  ⟨_, _, rfl, rfl, by decide⟩

theorem witness_WideReadIsByteReadsBackToBack :
    (wordRead .uart 6 = some (.rd16Uart 6) ∧ (Instr.rd16Uart 6).wf = true) ∧
    (dwordRead .ics 1 = some (.rd32Ics 1) ∧ (Instr.rd32Ics 1).wf = true) := by
  decide

theorem witness_WideWriteIsByteWritesBackToBack :
    (wordWrite .ics 3 0xBEEF = some (.wr16Ics 3 0xBEEF) ∧ (Instr.wr16Ics 3 0xBEEF).wf = true) ∧
    (dwordWrite .uart 4 0x41 = some (.wr32Uart 4 0x41) ∧ (Instr.wr32Uart 4 0x41).wf = true) := by
  decide

theorem witness_WideAccessBeyondTheSizeIsRefused : (Instr.rd16Wdog 7).wf = false ∧ (Instr.wr32Ics 2 0).wf = false := by
  decide

theorem witness_WideWriteThenReadReturnsTheValue :
    ((4 : BitVec 8) = 4) ∧ ((6 : BitVec 8) = 6 ∧ FieldName.wdogWinh ∉ base.cfg.tagged ∧
      FieldName.wdogWinl ∉ base.cfg.tagged) ∧ ((2 : BitVec 8) = 2 ∧ base.cfg.currentRead = .stored) := by
  decide

/-- A Running SYST timer. -/
def running (count limit : Nat) : State :=
  { busy with tS := ⟨count, limit⟩, tW := ⟨count, limit⟩ }

theorem witness_TickCountsWhileRunning :
    base.syst.csr.getLsbD 0 = false ∧ { base with wdog := { base.wdog with cs1 := 0 } }.wdog.cs1.getLsbD 7 = false ∧
    ((running 1 3).syst.csr.getLsbD 0 = true ∧ (running 1 3).tS.count + 1 < (running 1 3).tS.limit) ∧
    ((running 1 3).wdog.cs1.getLsbD 7 = true ∧ (running 1 3).tW.count + 1 < (running 1 3).tW.limit) := by
  decide

theorem witness_TickExpiresAtTheLimit :
    ((running 2 3).syst.csr.getLsbD 0 = true ∧ (running 2 3).tS.limit ≠ 0 ∧
      (running 2 3).tS.limit ≤ (running 2 3).tS.count + 1) ∧
    ((running 0 1).wdog.cs1.getLsbD 7 = true ∧ (running 0 1).tW.limit ≠ 0 ∧
      (running 0 1).tW.limit ≤ (running 0 1).tW.count + 1) := by
  decide

theorem witness_ZeroLimitTickRecordsTheFault :
    ((running 0 0).syst.csr.getLsbD 0 = true ∧ (running 0 0).tS.limit = 0) ∧
    ((running 0 0).wdog.cs1.getLsbD 7 = true ∧ (running 0 0).tW.limit = 0) ∧
    (takeFault .unmodelledLimitZero busy).fault = some .unmodelledLimitZero ∧
    ∃ t, exec .machineReset (takeFault .unmodelledLimitZero busy) = .next t :=
  ⟨by decide, by decide, by decide, _, rfl⟩

theorem witness_ExactlyLimitTicksExpireOnce :
    ((running 0 3).tS.count = 0 ∧ 1 ≤ (running 0 3).tS.limit ∧ (0x00000003 : DWord).getLsbD 0 = true ∧
      2 < (running 0 3).tS.limit ∧ 3 = (running 0 3).tS.limit ∧ (0x00000002 : DWord).getLsbD 0 = false) ∧
    ((running 0 1).tW.count = 0 ∧ 1 ≤ (running 0 1).tW.limit ∧ (0x80 : Byte).getLsbD 7 = true ∧
      0 < (running 0 1).tW.limit ∧ 1 = (running 0 1).tW.limit ∧ (0x7F : Byte).getLsbD 7 = false) := by
  decide

theorem witness_UartResetClearsQueueKeepsBuffer : busy.cfg.rvUartC2 = 0 := rfl

theorem witness_MachineResetRestoresEveryDevice : busy.cfg.rvUartC2 = 0 := rfl

theorem witness_ArrivingByteIsAppended :
    base.cfg.rxpushRecompute = false ∧ (withCfg fun p => { p with rxpushRecompute := true }).cfg.rxpushRecompute = true := by
  decide

theorem witness_ReadsAfterMachineReset :
    DefaultResetValues busy.cfg ∧ busy.cfg.currentRead = .stored ∧ 1 ≤ busy.cfg.rxwm ∧
    (withCfg fun p => { p with currentRead := .live }).cfg.currentRead = .live := by
  simp only [DefaultResetValues]
  decide

end Sys2Proof.Tests
end

section
/-! No operation of the block changes a parameter (00_scope.md R5). -/

namespace Sys2Proof.Machine

@[simp] theorem recompute_cfg (s : State) : (recompute s).cfg = s.cfg := by rw [recompute_eq]

@[simp] theorem flush_cfg (s : State) : (flush s).cfg = s.cfg := by rw [flush_eq]

@[simp] theorem resetSyst_cfg (s : State) : (resetSyst s).cfg = s.cfg := by rw [resetSyst_eq]

@[simp] theorem resetWdog_cfg (s : State) : (resetWdog s).cfg = s.cfg := by rw [resetWdog_eq]

@[simp] theorem resetIcs_cfg (s : State) : (resetIcs s).cfg = s.cfg := by rw [resetIcs_eq]

@[simp] theorem tick_cfg (t : TimerId) (s : State) : (tick t s).cfg = s.cfg := by
  obtain ⟨-, h⟩ | ⟨-, -, h⟩ | ⟨-, -, -, h⟩ | ⟨-, -, -, h⟩ := tick_cases t s
  · rw [h]
  · rw [h, takeFault_cfg]
  · rw [h, setTimer_cfg]
  · rw [h, setTimer_cfg, emit_cfg]

/-- Holding the parameters `p`: kept by every elementary update, because each update leaves `cfg` alone. -/
theorem cfg_eq_closed (p : Params) : Closed fun s => s.cfg = p where
  log _ s h := (emit_cfg _ s).trans h
  answer d s h := (answer_cfg d s).trans h
  draws _ _ h := h
  recompute s h := (recompute_cfg s).trans h
  store8 r _ _ s _ _ h := (put8_cfg r _ s).trans h
  store32 r _ _ s _ _ h := (put32_cfg r _ s).trans h
  limit t _ s _ h := (setTimer_cfg t _ s).trans h
  enqueue _ _ h := (flush_cfg _).trans h
  pop _ _ _ _ h := h
  push _ _ h := h
  tick t s h := (tick_cfg t s).trans h
  resetSyst s h := (resetSyst_cfg s).trans h
  resetWdog s h := (resetWdog_cfg s).trans h
  resetUartRegs _ h := (resetRegs8_cfg _ _).trans h
  resetIcs s h := (resetIcs_cfg s).trans h
  clearRx _ h := h
  resetDone _ h := h

end Sys2Proof.Machine

namespace Sys2Proof.Claims

open Sys2Proof.Machine

/-- Settles O15: "the parameters are those of `s`" is closed under the elementary updates and under taking a transaction. -/
theorem stepKeepsParameters : Obligations.StepKeepsParameters := fun s _ e =>
  (cfg_eq_closed s.cfg).step (fun _ _ h => h) rfl e

end Sys2Proof.Claims
end

section
/-! The clean registers (10_state.md R22): no elementary update stores a bit outside the fields that hold state. -/

namespace Sys2Proof.Machine

theorem RegsClean.setTimer {t : TimerId} {x : Timer} {s : State} (h : RegsClean s) : RegsClean (setTimer t x s) :=
  h.congr (setTimer_cfg t x s) (setTimer_syst t x s) (setTimer_wdog t x s) (setTimer_uart t x s) (setTimer_ics t x s)

theorem RegsClean.recompute {s : State} (h : RegsClean s) : RegsClean (recompute s) := by
  rw [recompute_eq]
  exact h.congr rfl rfl rfl rfl rfl

theorem RegsClean.flush {s : State} (h : RegsClean s) : RegsClean (flush s) := by
  rw [flush_eq]
  exact h.congr rfl rfl rfl rfl rfl

theorem RegsClean.tick {t : TimerId} {s : State} (h : RegsClean s) : RegsClean (tick t s) := by
  obtain ⟨-, e⟩ | ⟨-, -, e⟩ | ⟨-, -, -, e⟩ | ⟨-, -, -, e⟩ := tick_cases t s <;> rw [e]
  · exact h
  · exact h.congr rfl rfl rfl rfl rfl
  · exact h.setTimer
  · exact RegsClean.setTimer (h.congr rfl rfl rfl rfl rfl)

/-- A declared reset value is cut to the bits that hold state (40_regfile.md R94). -/
theorem RegsClean.resetRegs8 {s : State} (h : RegsClean s) (rs : List Reg8) : RegsClean (resetRegs8 s rs) := by
  induction rs generalizing s with
  | nil => exact h
  | cons r rs ih => exact ih (h.put8 (and_within _ _))

theorem RegsClean.resetRegs32 {s : State} (h : RegsClean s) (rs : List Reg32) : RegsClean (resetRegs32 s rs) := by
  induction rs generalizing s with
  | nil => exact h
  | cons r rs ih => exact ih (h.put32 (and_within _ _))

theorem RegsClean.resetSyst {s : State} (h : RegsClean s) : RegsClean (resetSyst s) := by
  unfold Machine.resetSyst
  exact (h.resetRegs32 _).setTimer

theorem RegsClean.resetWdog {s : State} (h : RegsClean s) : RegsClean (resetWdog s) := by
  unfold Machine.resetWdog
  exact (h.resetRegs8 _).setTimer

theorem regsClean_closed : Closed RegsClean where
  log _ _ h := h.congr rfl rfl rfl rfl rfl
  answer _ _ h := h.congr rfl rfl rfl rfl rfl
  draws _ _ h := h.congr rfl rfl rfl rfl rfl
  recompute _ h := h.recompute
  store8 r _ _ _ hf hs h := h.put8 (blend_within (h.1 r) (fieldMask_stored hf hs))
  store32 r _ _ _ hf hs h := h.put32 (blend_within (h.2 r) (fieldMask_stored hf hs))
  limit _ _ _ _ h := RegsClean.setTimer h
  enqueue _ _ h := RegsClean.flush (h.congr rfl rfl rfl rfl rfl)
  pop _ _ _ _ h := h.congr rfl rfl rfl rfl rfl
  push _ _ h := h.congr rfl rfl rfl rfl rfl
  tick _ _ h := h.tick
  resetSyst _ h := h.resetSyst
  resetWdog _ h := h.resetWdog
  resetUartRegs s h := RegsClean.resetRegs8 (s := { s with txq := [] }) (h.congr rfl rfl rfl rfl rfl) _
  resetIcs _ h := h.resetRegs8 _
  clearRx _ h := h.congr rfl rfl rfl rfl rfl
  resetDone _ h := h.congr rfl rfl rfl rfl rfl

theorem get8_construct (p : Params) (r : Reg8) : get8 r (.construct p) = storedReset8 p r := by
  cases r with
  | uartS1 | icsS => exact BitVec.zero_and.symm
  | _ => rfl

theorem get32_construct (p : Params) (r : Reg32) : get32 r (.construct p) = storedReset32 p r := by
  cases r with
  | calib => exact BitVec.zero_and.symm
  | _ => rfl

theorem regsClean_construct (p : Params) : RegsClean (.construct p) := by
  refine ⟨fun r => ?_, fun r => ?_⟩
  · rw [get8_construct]
    exact and_within _ _
  · rw [get32_construct]
    exact and_within _ _

end Sys2Proof.Machine

namespace Sys2Proof.Claims

open Sys2Proof.Machine

/-- Settles O10: clean registers are closed under the elementary updates, since a write stores a field's bits only where
the field holds state, and a reset cuts its values to those fields. -/
theorem stepKeepsRegistersClean : Obligations.StepKeepsRegistersClean := fun _ _ =>
  regsClean_closed.step fun _ _ h => h.congr rfl rfl rfl rfl rfl

end Sys2Proof.Claims
end

section
/-! The timers' bound (10_state.md R43). -/

namespace Sys2Proof.Machine

/-- CountsBelowLimits reads the parameters, the fault and the two timers only. -/
theorem CountsBelowLimits.congr {s t : State} (h : CountsBelowLimits s) (hc : t.cfg = s.cfg) (hf : t.fault = s.fault)
    (hS : t.tS = s.tS) (hW : t.tW = s.tW) : CountsBelowLimits t := by
  unfold CountsBelowLimits
  rw [hc, hf, hS, hW]
  exact h

theorem CountsBelowLimits.of_reloadSetsLimit {s : State} (h : s.cfg.reloadSetsLimit = true) : CountsBelowLimits s :=
  fun hc => absurd (h.symm.trans hc) (by decide)

/-- A timer set below its own limit keeps the bound. -/
theorem CountsBelowLimits.setTimer {t : TimerId} {x : Timer} {s : State} (h : CountsBelowLimits s)
    (hx : 1 ≤ x.limit → x.count < x.limit) : CountsBelowLimits (setTimer t x s) := by
  intro hc hf
  rw [setTimer_cfg] at hc
  rw [setTimer_fault] at hf
  obtain ⟨hS, hW⟩ := h hc hf
  cases t with
  | syst => exact ⟨hx, hW⟩
  | wdog => exact ⟨hS, hx⟩

theorem CountsBelowLimits.resetRegs8 {s : State} (h : CountsBelowLimits s) (rs : List Reg8) :
    CountsBelowLimits (resetRegs8 s rs) :=
  h.congr (resetRegs8_cfg rs s) (resetRegs8_fault rs s) (resetRegs8_tS rs s) (resetRegs8_tW rs s)

theorem CountsBelowLimits.tick {t : TimerId} {s : State} (h : CountsBelowLimits s) : CountsBelowLimits (tick t s) := by
  obtain ⟨-, e⟩ | ⟨-, -, e⟩ | ⟨-, -, hlt, e⟩ | ⟨-, -, -, e⟩ := tick_cases t s <;> rw [e]
  · exact h
  · intro _ hf
    cases hf
  · exact h.setTimer fun _ => hlt
  · exact CountsBelowLimits.setTimer (h.congr rfl rfl rfl rfl) id

theorem CountsBelowLimits.resetSyst {s : State} (h : CountsBelowLimits s) : CountsBelowLimits (resetSyst s) := by
  unfold Machine.resetSyst
  exact CountsBelowLimits.setTimer (h.congr rfl rfl rfl rfl) id

theorem CountsBelowLimits.resetWdog {s : State} (h : CountsBelowLimits s) : CountsBelowLimits (resetWdog s) := by
  unfold Machine.resetWdog
  exact CountsBelowLimits.setTimer (h.resetRegs8 _) id

theorem countsBelowLimits_closed : Closed CountsBelowLimits where
  log _ _ h := h.congr rfl rfl rfl rfl
  answer _ _ h := h.congr rfl rfl rfl rfl
  draws _ _ h := h.congr rfl rfl rfl rfl
  recompute s h := by
    rw [recompute_eq]
    exact h.congr rfl rfl rfl rfl
  store8 r _ _ s _ _ h := h.congr (put8_cfg r _ s) (put8_fault r _ s) (put8_tS r _ s) (put8_tW r _ s)
  store32 r _ _ s _ _ h := h.congr (put32_cfg r _ s) (put32_fault r _ s) (put32_tS r _ s) (put32_tW r _ s)
  limit t _ s hr _ := CountsBelowLimits.of_reloadSetsLimit (by rw [setTimer_cfg, hr])
  enqueue _ _ h := by
    rw [flush_eq]
    exact h.congr rfl rfl rfl rfl
  pop _ _ _ _ h := h.congr rfl rfl rfl rfl
  push _ _ h := h.congr rfl rfl rfl rfl
  tick _ _ h := h.tick
  resetSyst _ h := h.resetSyst
  resetWdog _ h := h.resetWdog
  resetUartRegs s h := CountsBelowLimits.resetRegs8 (s := { s with txq := [] }) (h.congr rfl rfl rfl rfl) _
  resetIcs _ h := h.resetRegs8 _
  clearRx _ h := h.congr rfl rfl rfl rfl
  resetDone _ h := h.congr rfl rfl rfl rfl

theorem countsBelowLimits_construct (p : Params) : CountsBelowLimits (.construct p) :=
  fun _ _ => ⟨id, id⟩

end Sys2Proof.Machine

namespace Sys2Proof.Claims

open Sys2Proof.Machine

/-- Settles O12: a tick that only counts stays below the limit, an expiry and a reset start from 0, the faulting tick
records the fault, and with `P_RELOAD_SETS_LIMIT` false no write moves a limit. -/
theorem stepKeepsCountsBelowLimits : Obligations.StepKeepsCountsBelowLimits := fun _ _ =>
  countsBelowLimits_closed.step fun _ _ h => h.congr rfl rfl rfl rfl

/-- Settles O14: every register is constructed with its stored reset value, the queue and the history are empty, and both
timers count from 0. -/
theorem constructedStateMeetsTheInvariants : Obligations.ConstructedStateMeetsTheInvariants := fun p =>
  ⟨regsClean_construct p, Nat.zero_le _, countsBelowLimits_construct p, rfl⟩

end Sys2Proof.Claims
end

section
/-! The history (10_state.md R45): every elementary update appends. -/

namespace Sys2Proof.Machine

theorem hist_prefix_tick (t : TimerId) (s : State) : s.hist <+: (tick t s).hist := by
  obtain ⟨-, e⟩ | ⟨-, -, e⟩ | ⟨-, -, -, e⟩ | ⟨-, -, -, e⟩ := tick_cases t s <;> rw [e]
  · rw [takeFault_hist]
  · rw [setTimer_hist]
  · rw [setTimer_hist]
    exact List.prefix_append _ _

/-- Having `es` as the beginning of the history: kept by every elementary update, because none drops an event. -/
theorem hist_prefix_closed (es : List Event) : Closed fun s => es <+: s.hist where
  log _ _ h := h.trans (List.prefix_append _ _)
  answer _ _ h := h
  draws _ _ h := h
  recompute _ h := by
    rw [recompute_eq]
    exact h.trans (List.prefix_append _ _)
  store8 r _ _ s _ _ h := (put8_hist r _ s).symm ▸ h
  store32 r _ _ s _ _ h := (put32_hist r _ s).symm ▸ h
  limit t _ s _ h := (setTimer_hist t _ s).symm ▸ h
  enqueue _ _ h := by
    rw [flush_eq]
    exact h.trans (List.prefix_append _ _)
  pop _ _ _ _ h := h
  push _ _ h := h
  tick t s h := h.trans (hist_prefix_tick t s)
  resetSyst _ h := by rwa [resetSyst_eq]
  resetWdog _ h := by rwa [resetWdog_eq]
  resetUartRegs _ h := (resetRegs8_hist _ _).symm ▸ h
  resetIcs _ h := by rwa [resetIcs_eq]
  clearRx _ h := h
  resetDone _ h := h

end Sys2Proof.Machine

namespace Sys2Proof.Claims

open Sys2Proof.Machine

/-- Settles O16: "the history begins with that of `s`" is closed under the elementary updates, resets included. -/
theorem historyOnlyGrows : Obligations.HistoryOnlyGrows := by
  intro s t e
  obtain ⟨es, h⟩ := (hist_prefix_closed s.hist).step (fun _ _ h => h) List.prefix_rfl e
  exact ⟨es, h.symm⟩

end Sys2Proof.Claims
end

section
/-! The pending reset request (10_state.md R45): raised by an expiry, cleared by MACHINE_RESET, kept by all else. -/

namespace Sys2Proof.Machine

open Sys2Proof.Claims

@[simp] theorem recompute_resetPending (s : State) : (recompute s).resetPending = s.resetPending := by rw [recompute_eq]

@[simp] theorem flush_resetPending (s : State) : (flush s).resetPending = s.resetPending := by rw [flush_eq]

@[simp] theorem resetUart_resetPending (s : State) : (resetUart s).resetPending = s.resetPending := by
  rw [resetUart_eq, recompute_resetPending]

@[simp] theorem rxPush_resetPending (b : Byte) (s : State) : (rxPush b s).resetPending = s.resetPending := by
  unfold rxPush
  split
  · rw [recompute_resetPending]
  · rfl

@[simp] theorem machineReset_resetPending (s : State) : (machineReset s).resetPending = false := rfl

/-- A tick leaves the request as it was, or expires and records it (41_timer_core.md R134, R135). -/
theorem tick_resetPending_cases (t : TimerId) (s : State) :
    (tick t s).resetPending = s.resetPending ∨
      ((tick t s).resetPending = true ∧ (tick t s).hist = s.hist ++ expiryEvents t (irqEnabled t s)) := by
  obtain ⟨-, e⟩ | ⟨-, -, e⟩ | ⟨-, -, -, e⟩ | ⟨-, -, -, e⟩ := tick_cases t s <;> rw [e]
  · exact .inl rfl
  · exact .inl rfl
  · exact .inl (setTimer_resetPending t _ s)
  · exact .inr ⟨setTimer_resetPending t _ _, setTimer_hist t _ _⟩

/-- No register access touches the request. -/
theorem resetPending_eq_accessClosed (b : Bool) : AccessClosed fun s => s.resetPending = b where
  log _ _ h := h
  answer _ _ h := h
  draws _ _ h := h
  recompute s h := (recompute_resetPending s).trans h
  store8 r _ _ s _ _ h := (put8_resetPending r _ s).trans h
  store32 r _ _ s _ _ h := (put32_resetPending r _ s).trans h
  limit t _ s _ h := (setTimer_resetPending t _ s).trans h
  enqueue _ _ h := (flush_resetPending _).trans h
  pop _ _ _ _ h := h

/-- What a transaction can do to the request: keep it, clear it as MACHINE_RESET, or raise it as an expiring tick. -/
theorem exec_resetPending_cases {i : Instr} {s t : State} (e : exec i s = .next t) :
    t.resetPending = s.resetPending ∨ (i = .machineReset ∧ t.resetPending = false) ∨
      (t.resetPending = true ∧ ((i = .tickSyst ∧ t.hist = s.hist ++ expiryEvents .syst (irqEnabled .syst s)) ∨
        (i = .tickWdog ∧ t.hist = s.hist ++ expiryEvents .wdog (irqEnabled .wdog s)))) := by
  by_cases hi : event i = false
  · exact .inl ((resetPending_eq_accessClosed s.resetPending).exec hi rfl e)
  cases i <;> first | exact absurd rfl hi | skip
  case tickSyst =>
    cases e
    exact (tick_resetPending_cases .syst s).imp_right fun ⟨hp, hh⟩ => .inr ⟨hp, .inl ⟨rfl, hh⟩⟩
  case tickWdog =>
    cases e
    exact (tick_resetPending_cases .wdog s).imp_right fun ⟨hp, hh⟩ => .inr ⟨hp, .inr ⟨rfl, hh⟩⟩
  case resetSyst => cases e; exact .inl (by rw [resetSyst_eq])
  case resetWdog => cases e; exact .inl (by rw [resetWdog_eq])
  case resetUart => cases e; exact .inl (resetUart_resetPending s)
  case resetIcs => cases e; exact .inl (by rw [resetIcs_eq])
  case machineReset => cases e; exact .inr (.inl ⟨rfl, machineReset_resetPending s⟩)
  case rxpush b => cases e; exact .inl (rxPush_resetPending b s)

end Sys2Proof.Machine

namespace Sys2Proof.Claims

open Sys2Proof.Machine

/-- Settles O20: of the three things a transaction can do to the request, only an expiring tick raises it and only
MACHINE_RESET clears it. -/
theorem resetPendingFromExpiryToMachineReset : Obligations.ResetPendingFromExpiryToMachineReset := by
  intro i s t e
  obtain hk | ⟨hi, hc⟩ | ⟨hr, hi⟩ := exec_resetPending_cases e
  · exact ⟨fun hs ht => by simp [hk, hs] at ht, fun hs ht => by simp [hk, hs] at ht⟩
  · exact ⟨fun _ ht => by simp [hc] at ht, fun _ _ => hi⟩
  · exact ⟨fun _ _ => hi, fun _ ht => by simp [hr] at ht⟩

end Sys2Proof.Claims
end

section
/-! Writing a byte register and reading it back: the byte registers whose read shows their stored bits. -/

namespace Sys2Proof.Machine

open Sys2Proof.Claims

@[simp] theorem get8_recompute (r : Reg8) (s : State) : get8 r (recompute s) = get8 r s := by
  rw [recompute_eq]
  cases r <;> rfl

/-- The write effect of the timeout bytes can move the limit and no stored bit (43_watchdog.md R183). -/
theorem get8_runEffect_timeout (r : Reg8) (x y : DWord) (s : State) : get8 r (runEffect .timeout x y s) = get8 r s := by
  simp only [runEffect]
  split
  · cases r <;> rfl
  · rfl

/-- The computed registers S1 and ICS S are not among the registers whose read is silent. -/
theorem Reg8.stores_of_silent {r : Reg8} (h : (fields8 r).all Field.silent = true) : r.stores = true := by
  cases r <;> first | rfl | exact absurd h (by decide)

@[simp] theorem regWrite8_cfg (r : Reg8) (v : Byte) (s : State) : (regWrite8 r v s).cfg = s.cfg :=
  (cfg_eq_closed s.cfg).regWrite8 r v s rfl

theorem blend_allOnes (x v : Byte) : (x &&& ~~~BitVec.allOnes 8) ||| (v &&& BitVec.allOnes 8) = v := by
  rw [BitVec.and_allOnes, BitVec.not_allOnes, BitVec.and_zero, BitVec.zero_or]

theorem storedMask_tovalh (p : Params) : storedMask 8 p (fields8 .wdogTovalh) = BitVec.allOnes 8 := by
  simp [fields8, effectField, storedMask, Field.holdsState, Field.mode, fieldMask_byte]

theorem storedMask_tovall (p : Params) : storedMask 8 p (fields8 .wdogTovall) = BitVec.allOnes 8 := by
  simp [fields8, effectField, storedMask, Field.holdsState, Field.mode, fieldMask_byte]

/-- What a byte write of a register with a silent read leaves in its stored bits, whatever effect or hook the register has. -/
theorem get8_regWrite8_of_silent {r : Reg8} (h : (fields8 r).all Field.silent = true) (v : Byte) (s : State) :
    get8 r (regWrite8 r v s) =
      (get8 r s &&& ~~~storedMask 8 s.cfg (fields8 r)) ||| (v &&& storedMask 8 s.cfg (fields8 r)) := by
  have hs := Reg8.stores_of_silent h
  by_cases hr : r = .uartC2 ∨ r = .wdogTovalh ∨ r = .wdogTovall
  · rcases hr with rfl | rfl | rfl
    · rw [regWrite8_uartC2, get8_recompute, get8_emit, get8_put8 _ hs]
    · rw [regWrite8_tovalh, get8_runEffect_timeout, get8_put8 _ hs, storedMask_tovalh]
      exact (blend_allOnes _ v).symm
    · rw [regWrite8_tovall, get8_runEffect_timeout, get8_put8 _ hs, storedMask_tovall]
      exact (blend_allOnes _ v).symm
  · simp only [not_or] at hr
    obtain ⟨hc, hh, hl⟩ := hr
    have hq : (fields8 r).all Field.quiet = true := by
      cases r <;> first | rfl | contradiction
    rw [regWrite8_quiet r hq hs hc, get8_emit, get8_put8 r hs]

/-- Reading bits back through the mask they were written through. -/
theorem blend_and {w : Nat} (x v m : BitVec w) : ((x &&& ~~~m) ||| (v &&& m)) &&& m = v &&& m := by
  ext i hi
  simp only [BitVec.getElem_and, BitVec.getElem_or, BitVec.getElem_not]
  cases x[i] <;> cases v[i] <;> cases m[i] <;> rfl

/-- A byte written to a register with a silent read reads back in its stored bits (40_regfile.md R92, R93). -/
theorem regRead8_regWrite8_of_silent {r : Reg8} (h : (fields8 r).all Field.silent = true) (v : Byte) (s : State) :
    (regRead8 r (regWrite8 r v s)).1 = v &&& storedMask 8 s.cfg (fields8 r) := by
  rw [regRead8_silent r h, regWrite8_cfg, get8_regWrite8_of_silent h, blend_and]

/-- The stored bits depend on `P_FIELDKIND` alone (R95). -/
theorem storedMask_congr {w : Nat} {p q : Params} (h : p.tagged = q.tagged) (fs : List Field) :
    storedMask w p fs = storedMask w q fs := by
  induction fs with
  | nil => rfl
  | cons f fs ih =>
    have hm : f.mode p = f.mode q := by simp only [Field.mode, h]
    have hs : f.holdsState p = f.holdsState q := by simp only [Field.holdsState, hm]
    simp only [storedMask, hs, ih]

/-- The byte-write transaction of a register's offset writes that register (20_memory.md R51). -/
theorem exec_byteWrite {dev : Device} {off : Nat} {r : Reg8} (h : byteReg dev off = some r) (v : Byte) :
    ∃ i, byteWrite dev off v = some i ∧ ∀ s, exec i s = write8 r v s := by
  unfold byteReg at h
  split at h <;> cases h <;> exact ⟨_, rfl, fun _ => rfl⟩

/-- The byte-read transaction of a register's offset reads that register. -/
theorem exec_byteRead {dev : Device} {off : Nat} {r : Reg8} (h : byteReg dev off = some r) :
    ∃ j, byteRead dev off = some j ∧ ∀ s, exec j s = read8 r s := by
  unfold byteReg at h
  split at h <;> cases h <;> exact ⟨_, rfl, fun _ => rfl⟩

/-- The offset holds a register whose read shows its stored bits, and with no tagged field these are `bits`. -/
def storesBits (dev : Device) (off : Nat) (bits : Byte) : Bool :=
  (byteReg dev off).any fun r => (fields8 r).all Field.silent && storedMask 8 defaultParams (fields8 r) == bits

/-- Writing 0xFF at such an offset and reading it gives `bits`. -/
theorem write_ones_reads_bits {dev : Device} {off : Nat} {bits : Byte} (hb : storesBits dev off bits = true) {s : State}
    (ht : s.cfg.tagged = []) :
    ∃ i j t u, byteWrite dev off 0xFF = some i ∧ byteRead dev off = some j ∧ exec i s = .next t ∧
      exec j t = .next u ∧ u.rdata = .byte bits := by
  simp only [storesBits, Option.any_eq_true, Bool.and_eq_true, beq_iff_eq] at hb
  obtain ⟨r, hr, hsilent, hmask⟩ := hb
  obtain ⟨i, hi, ei⟩ := exec_byteWrite hr 0xFF
  obtain ⟨j, hj, ej⟩ := exec_byteRead hr
  refine ⟨i, j, _, _, hi, hj, ei s, ej _, ?_⟩
  rw [answer_rdata, regRead8_regWrite8_of_silent hsilent, storedMask_congr (q := defaultParams) ht, hmask]
  exact congrArg Data.byte (BitVec.allOnes_and)

end Sys2Proof.Machine

namespace Sys2Proof.Claims

open Sys2Proof.Machine

/-- Settles O32: each row of the list names a register that reads its stored bits, and these are the row's byte. -/
theorem writingOnesReadsBackTheFieldBits : Obligations.WritingOnesReadsBackTheFieldBits := by
  intro s ht rw hrw
  refine write_ones_reads_bits ?_ ht
  revert rw
  decide

end Sys2Proof.Claims
end

section
/-! Wide accesses beyond the device's size (40_regfile.md R98): no register sequence covers them, so the width adapter refuses
them before its first byte access. -/

namespace Sys2Proof.Machine

/-- A wide access that is not legal covers an offset without a register (20_memory.md R56). -/
theorem regsAt_eq_none {dev : Device} {w : Width} {off : BitVec 8} (hd : dev ≠ .syst) (h : wideLegal dev w off = false) :
    regsAt dev off.toNat w.bytes = none := by
  rw [← Option.not_isSome_iff_eq_none, regsAt_isSome dev hd w off, h]
  exact Bool.false_ne_true

theorem wideRead16_of_illegal {dev : Device} {off : BitVec 8} (hd : dev ≠ .syst) (h : wideLegal dev .word off = false)
    (s : State) : wideRead16 dev off s = .refused .outOfRange := by
  have hr : regsAt dev off.toNat 2 = none := regsAt_eq_none hd h
  rw [wideRead16, hr]

theorem wideRead32_of_illegal {dev : Device} {off : BitVec 8} (hd : dev ≠ .syst) (h : wideLegal dev .dword off = false)
    (s : State) : wideRead32 dev off s = .refused .outOfRange := by
  have hr : regsAt dev off.toNat 4 = none := regsAt_eq_none hd h
  rw [wideRead32, hr]

theorem wideWrite16_of_illegal {dev : Device} {off : BitVec 8} (hd : dev ≠ .syst) (h : wideLegal dev .word off = false)
    (v : BitVec 16) (s : State) : wideWrite16 dev off v s = .refused .outOfRange := by
  have hr : regsAt dev off.toNat 2 = none := regsAt_eq_none hd h
  rw [wideWrite16, hr]

theorem wideWrite32_of_illegal {dev : Device} {off : BitVec 8} (hd : dev ≠ .syst) (h : wideLegal dev .dword off = false)
    (v : DWord) (s : State) : wideWrite32 dev off v s = .refused .outOfRange := by
  have hr : regsAt dev off.toNat 4 = none := regsAt_eq_none hd h
  rw [wideWrite32, hr]

end Sys2Proof.Machine

namespace Sys2Proof.Claims

open Sys2Proof.Machine

/-- Settles O48: only the twelve wide accesses can be ill-formed, and the width adapter refuses each. -/
theorem wideAccessBeyondTheSizeIsRefused : Obligations.WideAccessBeyondTheSizeIsRefused := by
  intro s i hw
  cases i with
  | rd16Wdog _ => exact wideRead16_of_illegal (by decide) hw s
  | wr16Wdog _ v => exact wideWrite16_of_illegal (by decide) hw v s
  | rd32Wdog _ => exact wideRead32_of_illegal (by decide) hw s
  | wr32Wdog _ v => exact wideWrite32_of_illegal (by decide) hw v s
  | rd16Uart _ => exact wideRead16_of_illegal (by decide) hw s
  | wr16Uart _ v => exact wideWrite16_of_illegal (by decide) hw v s
  | rd32Uart _ => exact wideRead32_of_illegal (by decide) hw s
  | wr32Uart _ v => exact wideWrite32_of_illegal (by decide) hw v s
  | rd16Ics _ => exact wideRead16_of_illegal (by decide) hw s
  | wr16Ics _ v => exact wideWrite16_of_illegal (by decide) hw v s
  | rd32Ics _ => exact wideRead32_of_illegal (by decide) hw s
  | wr32Ics _ v => exact wideWrite32_of_illegal (by decide) hw v s
  | _ => exact nomatch hw

end Sys2Proof.Claims
end

section
/-! What one step runs (20_memory.md R60, R62; 30_encoding.md R70): the oldest offered transaction, also when it was offered as a
word of bits. -/

namespace Sys2Proof.Machine

/-- A step with nothing offered (log 1). -/
theorem step_of_idle {s : State} (hf : s.fault = none) (hp : s.pending = []) : step s = .next s := by
  simp [step, takeTransaction, hf, hp]

/-- The transaction of a word that decodes (log 14). -/
theorem decode_tableTransaction {nbits w : Nat} {i : Instr} (h : decodeTableWord nbits w = some i) :
    decode (tableTransaction nbits w) = .ok i := by
  unfold decodeTableWord at h
  split at h <;> cases h
  assumption

/-- The word offered is the one the next step runs, in the state without the offer. -/
theorem step_withFetchWord {s : State} {nbits w : Nat} {i : Instr} (hf : s.fault = none)
    (h : decodeTableWord nbits w = some i) : step (s.withFetchWord nbits w) = exec i s :=
  step_of_decode (s := s.withFetchWord nbits w) hf (offerNext_pending (tableTransaction nbits w) s) (decode_tableTransaction h)

end Sys2Proof.Machine

namespace Sys2Proof.Claims

open Sys2Proof.Machine

/-- Settles O7: the step of a decoded transaction, of an empty queue, and of a word just offered. -/
theorem stepRunsTheDecodedTransaction : Obligations.StepRunsTheDecodedTransaction :=
  ⟨fun _ _ _ _ => step_of_decode, fun _ => step_of_idle, fun _ _ _ _ => step_withFetchWord⟩

end Sys2Proof.Claims
end

section
/-! The decoder and the encoder (30_encoding.md R70, R76, R78, R82): the transaction chosen for an access or an event encodes to
the descriptor and the operand it was chosen for. -/

namespace Sys2Proof

open Sys2Proof.Claims

/-- An access within the size of a byte-native device decodes, with an operand that gives it an instruction. -/
theorem decode_accDesc {dev : Device} {dir : Nat} {w : Width} {off : BitVec 8} {d : Data} {i : Instr} (hdir : dir < 2)
    (hdev : dev ≠ .syst) (hl : wideLegal dev w off = true) (hi : instrOf (.access dev (dir == 1) w off) d = some i) :
    decode ⟨accDesc dev dir w off, d⟩ = .ok i :=
  decode_of_desc (decodeDesc_accDesc dev dir hdir w off hdev hl) hi

theorem systRead_encode {n : Nat} {i : Instr} (h : systRead n = some i) :
    i.wf = true ∧ encode i = ⟨accDesc .syst 0 .dword (BitVec.ofNat 8 n), .none⟩ := by
  unfold systRead at h
  split at h <;> cases h <;> exact ⟨rfl, rfl⟩

theorem systWrite_encode {n : Nat} {v : DWord} {i : Instr} (h : systWrite n v = some i) :
    i.wf = true ∧ encode i = ⟨accDesc .syst 1 .dword (BitVec.ofNat 8 n), .dword v⟩ := by
  unfold systWrite at h
  split at h <;> cases h <;> exact ⟨rfl, rfl⟩

theorem byteRead_encode {dev : Device} {n : Nat} {i : Instr} (h : byteRead dev n = some i) :
    i.wf = true ∧ encode i = ⟨accDesc dev 0 .byte (BitVec.ofNat 8 n), .none⟩ := by
  unfold byteRead wdogRead uartRead icsRead at h
  split at h
  · cases h
  all_goals split at h <;> cases h <;> exact ⟨rfl, rfl⟩

theorem byteWrite_encode {dev : Device} {n : Nat} {v : Byte} {i : Instr} (h : byteWrite dev n v = some i) :
    i.wf = true ∧ encode i = ⟨accDesc dev 1 .byte (BitVec.ofNat 8 n), .byte v⟩ := by
  unfold byteWrite wdogWrite uartWrite icsWrite at h
  split at h
  · cases h
  all_goals split at h <;> cases h <;> exact ⟨rfl, rfl⟩

theorem readAccess_byte (dev : Device) (off : BitVec 8) : readAccess dev .byte off = byteRead dev off.toNat := by
  cases dev <;> rfl

theorem writeAccess_byte (dev : Device) (off : BitVec 8) (v : Byte) :
    writeAccess dev off (.byte v) = byteWrite dev off.toNat v := by
  cases dev <;> rfl

/-- The read chosen for a legal access is well-formed and encodes to it. -/
theorem readAccess_encode {dev : Device} {w : Width} {off : BitVec 8} {i : Instr}
    (hl : (Desc.access dev false w off).legal) (h : readAccess dev w off = some i) :
    i.wf = true ∧ encode i = ⟨accDesc dev 0 w off, .none⟩ := by
  cases w with
  | byte =>
    rw [readAccess_byte] at h
    simpa using byteRead_encode h
  | word => cases dev <;> cases h <;> exact ⟨hl, rfl⟩
  | dword =>
    cases dev with
    | syst => simpa using systRead_encode h
    | _ => cases h; exact ⟨hl, rfl⟩

/-- The write chosen for a legal access is well-formed and encodes to it, operand included. -/
theorem writeAccess_encode {dev : Device} {w : Width} {off : BitVec 8} {d : Data} {i : Instr}
    (hl : (Desc.access dev true w off).legal) (hw : d.width = some w) (h : writeAccess dev off d = some i) :
    i.wf = true ∧ encode i = ⟨accDesc dev 1 w off, d⟩ := by
  cases d with
  | none => cases hw
  | byte v =>
    cases hw
    rw [writeAccess_byte] at h
    simpa using byteWrite_encode h
  | word v => cases hw; cases dev <;> cases h <;> exact ⟨hl, rfl⟩
  | dword v =>
    cases hw
    cases dev with
    | syst => simpa using systWrite_encode h
    | _ => cases h; exact ⟨hl, rfl⟩

theorem eventInstr_encode {x : Desc} {i : Instr} (h : eventInstr x = some i) :
    i.wf = true ∧ encode i = ⟨x.word, .none⟩ := by
  unfold eventInstr at h
  split at h <;> cases h <;> exact ⟨rfl, rfl⟩

theorem Data.eq_none_of_width {d : Data} (h : d.width = Option.none) : d = .none := by
  cases d with
  | none => rfl
  | _ => cases h

/-- The instruction a legal descriptor and an operand stand for is well-formed and encodes to them (R70, R78). -/
theorem instrOf_encode {x : Desc} {d : Data} {i : Instr} (hl : x.legal) (h : instrOf x d = some i) :
    i.wf = true ∧ encode i = ⟨x.word, d⟩ := by
  unfold instrOf at h
  split at h
  · obtain ⟨hw, h⟩ := Option.ite_none_right_eq_some.mp h
    exact Data.eq_none_of_width hw ▸ readAccess_encode hl h
  · obtain ⟨hw, h⟩ := Option.ite_none_right_eq_some.mp h
    exact writeAccess_encode hl hw h
  · obtain ⟨hw, h⟩ := Option.ite_none_right_eq_some.mp h
    exact Data.eq_none_of_width hw ▸ eventInstr_encode h

end Sys2Proof

namespace Sys2Proof.Claims

/-- Settles O1: the wide accesses by the decoder's law for accesses within the size, RXPUSH by its law for received bytes; every
other transaction has one descriptor, on which the decoder computes whatever the operand is. -/
theorem encodedTransactionDecodesToItself : Obligations.EncodedTransactionDecodesToItself := by
  intro i hw
  cases i with
  | rd16Wdog _ => exact decode_accDesc (by decide) (by decide) hw rfl
  | wr16Wdog _ _ => exact decode_accDesc (by decide) (by decide) hw rfl
  | rd32Wdog _ => exact decode_accDesc (by decide) (by decide) hw rfl
  | wr32Wdog _ _ => exact decode_accDesc (by decide) (by decide) hw rfl
  | rd16Uart _ => exact decode_accDesc (by decide) (by decide) hw rfl
  | wr16Uart _ _ => exact decode_accDesc (by decide) (by decide) hw rfl
  | rd32Uart _ => exact decode_accDesc (by decide) (by decide) hw rfl
  | wr32Uart _ _ => exact decode_accDesc (by decide) (by decide) hw rfl
  | rd16Ics _ => exact decode_accDesc (by decide) (by decide) hw rfl
  | wr16Ics _ _ => exact decode_accDesc (by decide) (by decide) hw rfl
  | rd32Ics _ => exact decode_accDesc (by decide) (by decide) hw rfl
  | wr32Ics _ _ => exact decode_accDesc (by decide) (by decide) hw rfl
  | rxpush b => exact decode_of_desc (decodeDesc_rxpush b) rfl
  | _ => exact decode_of_desc rfl rfl

/-- Settles O2: the decoded descriptor is legal and determines its word, and its instruction encodes to that word and the
operand. -/
theorem decodedTransactionEncodesBack : Obligations.DecodedTransactionEncodesBack := by
  intro t i h
  obtain ⟨x, hx, hi⟩ := decode_cases h
  obtain ⟨hword, hlegal⟩ := decodeDesc_sound hx
  have h := instrOf_encode hlegal hi
  rwa [hword] at h

end Sys2Proof.Claims
end

section
/-! The descriptors that decode (30_encoding.md R76): the decoder's two branches against the rule's fields. -/

namespace Sys2Proof

/-- A check that refuses accepts what fails its condition. -/
theorem exists_ok_ite_error {α : Type} {p : Prop} [Decidable p] {e : DecodeError} {y : Except DecodeError α} :
    (∃ x, (if p then .error e else y) = .ok x) ↔ ¬ p ∧ ∃ x, y = .ok x := by
  split <;> simp [*]

/-- A SYST access decodes when it is 32 bits wide at one of the four register offsets (20_memory.md R56). -/
theorem decodeAccess_syst_isOk (dir w off : Nat) :
    (∃ x, decodeAccess 0 dir w off = .ok x) ↔ w = 2 ∧ off ∈ [0x0, 0x4, 0x8, 0xC] := by
  have hoff : off ∈ [0x0, 0x4, 0x8, 0xC] ↔ off % 4 = 0 ∧ ¬ off > 0xC := by
    simp only [List.mem_cons, List.not_mem_nil, or_false]
    omega
  match w with
  | 0 | 1 => simp [decodeAccess, deviceOf, widthOf, ← apply_ite]
  | 2 =>
    simp only [decodeAccess, deviceOf, widthOf, if_true, ← apply_ite, exists_ok_ite_error, hoff]
    simp
  | w + 3 => simp [decodeAccess, deviceOf, widthOf]

/-- An access of a byte-native device decodes when its width is not reserved and its last byte lies within the size (R56). -/
theorem decodeAccess_native_isOk {n : Nat} {dev : Device} (hn : deviceOf n = some dev) (hdev : dev ≠ .syst) (dir : Nat)
    {w : Nat} (hw : w < 4) (off : Nat) :
    (∃ x, decodeAccess n dir w off = .ok x) ↔ w ≠ 3 ∧ off + 2 ^ w ≤ deviceSize dev := by
  match w, hw with
  | 0, _ | 1, _ | 2, _ => simp [decodeAccess, hn, hdev, widthOf, Width.bytes, exists_ok_ite_error]
  | 3, _ => simp [decodeAccess, hn, widthOf]

/-- R76's legal access descriptors. -/
theorem decodeAccess_isOk (dev dir : Nat) {w : Nat} (hw : w < 4) (off : Nat) :
    (∃ x, decodeAccess dev dir w off = .ok x) ↔ w ≠ 3 ∧
      ((dev = 0 ∧ w = 2 ∧ off ∈ [0x0, 0x4, 0x8, 0xC]) ∨ (dev ∈ [1, 2] ∧ off + 2 ^ w ≤ 8) ∨
        (dev = 3 ∧ off + 2 ^ w ≤ 5)) := by
  match dev with
  | 0 => simp +contextual [decodeAccess_syst_isOk]
  | 1 => simp [decodeAccess_native_isOk (n := 1) rfl, hw, deviceSize]
  | 2 => simp [decodeAccess_native_isOk (n := 2) rfl, hw, deviceSize]
  | 3 => simp [decodeAccess_native_isOk (n := 3) rfl, hw, deviceSize]
  | n + 4 => simp [decodeAccess, deviceOf]

/-- R76's legal event descriptors. -/
theorem decodeEvent_isOk (dev ev arg : Nat) :
    (∃ x, decodeEvent dev ev arg = .ok x) ↔
      (arg = 0 ∧ (dev, ev) ∈ [(0, 0), (1, 0), (0, 1), (1, 1), (2, 1), (3, 1), (7, 1)]) ∨ (dev = 2 ∧ ev = 2) := by
  unfold decodeEvent
  split
  case isTrue h => simp [h]
  case isFalse h =>
    rw [exists_ok_ite_error, not_not, or_iff_left h]
    refine and_congr_right fun _ => ?_
    split
    case h_8 =>
      simp only [reduceCtorEq, exists_false, false_iff, List.mem_cons, Prod.mk.injEq, List.not_mem_nil]
      grind
    all_goals simp

end Sys2Proof

namespace Sys2Proof.Claims

/-- Settles O3: by the three kinds of a descriptor, each branch of the decoder accepting what R76 lists. -/
theorem descriptorDecodesIffListed : Obligations.DescriptorDecodesIffListed := by
  intro d
  unfold decodeDesc ListedDescriptor
  split
  case h_1 hk => simp only [hk, decodeAccess_isOk _ _ (descField_lt d 8 2)]; simp
  case h_2 hk => simp only [hk, decodeEvent_isOk]; simp
  case h_3 h0 h1 => simp [imp_false.mp h0, imp_false.mp h1]

end Sys2Proof.Claims
end

section
/-! The operand a legal descriptor goes with (30_encoding.md R70; log 13). -/

namespace Sys2Proof

open Sys2Proof.Machine Sys2Proof.Claims

/-- The operand's width under a descriptor (R70): that of the access for a write, no operand for a read or an event. -/
def Desc.operandWidth : Desc → Option Width
  | .access _ true w _ => some w
  | _ => none

theorem operandFits_iff (x : Desc) (d : Data) : OperandFits x d ↔ d.width = x.operandWidth := by
  cases x with
  | access dev write w off => cases write <;> cases w <;> cases d <;>
      simp [OperandFits, Data.width, Desc.operandWidth]
  | _ => cases d <;> simp [OperandFits, Data.width, Desc.operandWidth]

/-- An operand of another width gives no instruction. -/
theorem instrOf_eq_none {x : Desc} {d : Data} (h : d.width ≠ x.operandWidth) : instrOf x d = none := by
  cases x with
  | access dev write w off => cases write <;> exact if_neg h
  | _ => exact if_neg h

/-- A legal byte access is at the offset of a register (20_memory.md R51). -/
theorem exists_byteReg_of_legal {dev : Device} {write : Bool} {off : BitVec 8}
    (hl : (Desc.access dev write .byte off).legal) : ∃ r, byteReg dev off.toNat = some r := by
  have hdev : dev ≠ .syst := by rintro rfl; exact nomatch hl.1
  have hw : wideLegal dev .byte off = true := by
    cases dev with
    | syst => contradiction
    | _ => exact hl
  rw [← regsAt_isSome dev hdev, Width.bytes, regsAt] at hw
  split at hw
  · exact ⟨_, ‹_›⟩
  · cases hw

theorem exists_readAccess_of_legal {dev : Device} {write : Bool} {w : Width} {off : BitVec 8}
    (hl : (Desc.access dev write w off).legal) : ∃ i, readAccess dev w off = some i := by
  cases w with
  | byte =>
    obtain ⟨r, hr⟩ := exists_byteReg_of_legal hl
    obtain ⟨i, hi, -⟩ := exec_byteRead hr
    exact ⟨i, (readAccess_byte dev off).trans hi⟩
  | word =>
    cases dev with
    | syst => exact nomatch hl.1
    | _ => exact ⟨_, rfl⟩
  | dword =>
    cases dev with
    | syst => obtain ⟨-, rfl | rfl | rfl | rfl⟩ := hl <;> exact ⟨_, rfl⟩
    | _ => exact ⟨_, rfl⟩

theorem exists_writeAccess_of_legal {dev : Device} {write : Bool} {w : Width} {off : BitVec 8} {d : Data}
    (hl : (Desc.access dev write w off).legal) (hd : d.width = some w) : ∃ i, writeAccess dev off d = some i := by
  cases d with
  | none => cases hd
  | byte v =>
    cases hd
    obtain ⟨r, hr⟩ := exists_byteReg_of_legal hl
    obtain ⟨i, hi, -⟩ := exec_byteWrite hr v
    exact ⟨i, (writeAccess_byte dev off v).trans hi⟩
  | word v =>
    cases hd
    cases dev with
    | syst => exact nomatch hl.1
    | _ => exact ⟨_, rfl⟩
  | dword v =>
    cases hd
    cases dev with
    | syst => obtain ⟨-, rfl | rfl | rfl | rfl⟩ := hl <;> exact ⟨_, rfl⟩
    | _ => exact ⟨_, rfl⟩

/-- A legal descriptor and an operand of its width stand for an instruction. -/
theorem exists_instrOf_of_legal {x : Desc} {d : Data} (hl : x.legal) (h : d.width = x.operandWidth) :
    ∃ i, instrOf x d = some i := by
  cases x with
  | access dev write w off =>
    cases write with
    | false => exact (exists_readAccess_of_legal hl).imp fun _ hi => (if_pos h).trans hi
    | true => exact (exists_writeAccess_of_legal hl h).imp fun _ hi => (if_pos h).trans hi
  | tick t => cases t <;> exact ⟨_, if_pos h⟩
  | reset dev => cases dev <;> exact ⟨_, if_pos h⟩
  | _ => exact ⟨_, if_pos h⟩

end Sys2Proof

namespace Sys2Proof.Claims

/-- Settles O5: `OperandFits` asks for the descriptor's operand width, and only with an operand of that width is there an
instruction. -/
theorem operandMustFitDescriptor : Obligations.OperandMustFitDescriptor := by
  intro d x w hx
  rw [operandFits_iff]
  constructor
  · intro hw
    obtain ⟨i, hi⟩ := exists_instrOf_of_legal (decodeDesc_sound hx).2 hw
    exact ⟨i, decode_of_desc hx hi⟩
  · intro hw
    simp only [decode, hx, instrOf_eq_none hw]

end Sys2Proof.Claims
end

section
/-! Descriptors written out (95_test_vectors.md E1 to E25). -/

namespace Sys2Proof.Claims

/-- Settles O6: every transaction and descriptor of the list is closed, so the decoder computes on it. -/
theorem writtenOutDescriptorsDecode : Obligations.WrittenOutDescriptorsDecode := by
  unfold Obligations.WrittenOutDescriptorsDecode
  decide

end Sys2Proof.Claims
end

section
/-! Reserved bits (40_regfile.md R97): a field's read lies within the field's bits and a field's write looks at no other bit of
the operand, so a register's read and write see the bits some field covers only. -/

namespace Sys2Proof.Machine

open Sys2Proof.Claims

/-- The join of two values lies within the join of their masks. -/
theorem or_within {w : Nat} {x y k l : BitVec w} (hx : x &&& ~~~k = 0) (hy : y &&& ~~~l = 0) :
    (x ||| y) &&& ~~~(k ||| l) = 0 := by
  ext i hi
  have h1 := congrArg (fun b => b[i]) hx
  have h2 := congrArg (fun b => b[i]) hy
  simp only [BitVec.getElem_and, BitVec.getElem_or, BitVec.getElem_not] at h1 h2 ⊢
  revert h1 h2
  cases x[i] <;> cases y[i] <;> cases k[i] <;> cases l[i] <;> simp

theorem readField_within {w : Nat} (get : State → BitVec w) (f : Field) (s : State) :
    (readField get f s).1 &&& ~~~fieldMask w f = 0 := by
  unfold readField
  split
  · exact BitVec.zero_and
  · exact BitVec.zero_and
  all_goals
    split
    · exact and_within _ _
    · exact and_within _ _

/-- A register read gives 0 in every bit no field covers. -/
theorem readFields_within {w : Nat} (get : State → BitVec w) (fs : List Field) (s : State) :
    (readFields get fs s).1 &&& ~~~coveredMask w fs = 0 := by
  induction fs generalizing s with
  | nil => exact BitVec.zero_and
  | cons f fs ih => exact or_within (readField_within get f s) (ih _)

/-- Operands that agree on a join of masks agree on each. -/
theorem and_eq_and_of_or {w : Nat} {v x k l : BitVec w} (h : v &&& (k ||| l) = x &&& (k ||| l)) :
    v &&& k = x &&& k ∧ v &&& l = x &&& l := by
  have hk : (k ||| l) &&& k = k := by
    ext i hi
    simpa using Or.inl
  have hl : (k ||| l) &&& l = l := by
    ext i hi
    simpa using Or.inr
  constructor
  · rw [← hk, ← BitVec.and_assoc, h, BitVec.and_assoc]
  · rw [← hl, ← BitVec.and_assoc, h, BitVec.and_assoc]

theorem writeField_congr {w : Nat} (get : State → BitVec w) (put : BitVec w → State → State) {v x : BitVec w} {f : Field}
    (h : v &&& fieldMask w f = x &&& fieldMask w f) (s : State) :
    writeField get put v f s = writeField get put x f s := by
  simp only [writeField, fieldBits, h]

/-- Two register writes whose operands agree on the covered bits do the same. -/
theorem writeFields_congr {w : Nat} (get : State → BitVec w) (put : BitVec w → State → State) {v x : BitVec w}
    {fs : List Field} (h : v &&& coveredMask w fs = x &&& coveredMask w fs) (s : State) :
    writeFields get put v fs s = writeFields get put x fs s := by
  induction fs generalizing s with
  | nil => rfl
  | cons f fs ih =>
    obtain ⟨hf, hfs⟩ := and_eq_and_of_or h
    rw [writeFields, writeFields, writeField_congr get put hf, ih hfs]

/-- The byte access of an offset, given by name, is the access to the offset's register. -/
theorem exec_eq_read8 {dev : Device} {off : Nat} {i : Instr} {r : Reg8} (hi : byteRead dev off = some i)
    (hr : byteReg dev off = some r) (s : State) : exec i s = read8 r s := by
  obtain ⟨j, hj, ej⟩ := exec_byteRead hr
  cases hi.symm.trans hj
  exact ej s

theorem exec_eq_write8 {dev : Device} {off : Nat} {v : Byte} {i : Instr} {r : Reg8} (hi : byteWrite dev off v = some i)
    (hr : byteReg dev off = some r) (s : State) : exec i s = write8 r v s := by
  obtain ⟨j, hj, ej⟩ := exec_byteWrite hr v
  cases hi.symm.trans hj
  exact ej s

/-- The same at SYST (20_memory.md R51). -/
theorem exec_eq_read32 {off : Nat} {i : Instr} {r : Reg32} (hi : systRead off = some i) (hr : systReg off = some r)
    (s : State) : exec i s = read32 r s := by
  unfold systReg at hr
  split at hr <;> cases hr <;> cases hi <;> rfl

theorem exec_eq_write32 {off : Nat} {v : DWord} {i : Instr} {r : Reg32} (hi : systWrite off v = some i)
    (hr : systReg off = some r) (s : State) : exec i s = write32 r v s := by
  unfold systReg at hr
  split at hr <;> cases hr <;> cases hi <;> rfl

theorem write8_congr {r : Reg8} {v x : Byte} (h : v &&& coveredMask 8 (fields8 r) = x &&& coveredMask 8 (fields8 r))
    (s : State) : write8 r v s = write8 r x s := by
  rw [write8, write8, regWrite8, regWrite8, writeFields_congr _ _ h]

theorem write32_congr {r : Reg32} {v x : DWord}
    (h : v &&& coveredMask 32 (fields32 r) = x &&& coveredMask 32 (fields32 r)) (s : State) :
    write32 r v s = write32 r x s := by
  rw [write32, write32, regWrite32, regWrite32, writeFields_congr _ _ h]

end Sys2Proof.Machine

namespace Sys2Proof.Claims

open Sys2Proof.Machine

/-- Settles O33: the loops of R92 and R93 over any list of fields see the covered bits only. -/
theorem reservedBitsReadZeroAndAreDropped : Obligations.ReservedBitsReadZeroAndAreDropped := by
  refine ⟨?_, ?_, ?_, ?_⟩
  · intro s dev off i r hi hr
    exact ⟨_, _, exec_eq_read8 hi hr s, rfl, readFields_within _ _ _⟩
  · intro s off i r hi hr
    exact ⟨_, _, exec_eq_read32 hi hr s, rfl, readFields_within _ _ _⟩
  · intro s dev off i j r v w hr hi hj h
    rw [exec_eq_write8 hi hr, exec_eq_write8 hj hr, write8_congr h]
  · intro s off i j r v w hr hi hj h
    rw [exec_eq_write32 hi hr, exec_eq_write32 hj hr, write32_congr h]

end Sys2Proof.Claims
end

section
/-! Tagged fields (40_regfile.md R92, R93, R95): a tagged field holds no state, and because the fields of a register do not
overlap, its bits lie outside the register's stored bits. -/

namespace Sys2Proof.Machine

open Sys2Proof.Claims

/-- The fields of a byte register do not overlap (10_state.md R27 to R42). -/
theorem fields8_disjoint (r : Reg8) : (fields8 r).Pairwise fun f g => fieldMask 8 f &&& fieldMask 8 g = 0 := by
  cases r <;> decide

theorem and_storedMask_cons {w : Nat} {x : BitVec w} {cfg : Params} {g : Field} {fs : List Field}
    (hg : g.holdsState cfg = true → x &&& fieldMask w g = 0) (hfs : x &&& storedMask w cfg fs = 0) :
    x &&& storedMask w cfg (g :: fs) = 0 := by
  rw [storedMask, BitVec.and_or_distrib_left, hfs]
  split
  · rw [hg ‹_›]
    exact BitVec.or_zero
  · rw [BitVec.ofNat_eq_ofNat, BitVec.and_zero, BitVec.or_zero]

/-- Bits apart from every field are apart from the stored bits. -/
theorem and_storedMask_eq_zero {w : Nat} {x : BitVec w} {cfg : Params} {fs : List Field}
    (h : ∀ g ∈ fs, x &&& fieldMask w g = 0) : x &&& storedMask w cfg fs = 0 := by
  induction fs with
  | nil => exact BitVec.and_zero
  | cons g fs ih =>
    exact and_storedMask_cons (fun _ => h g List.mem_cons_self) (ih fun k hk => h k (List.mem_cons_of_mem g hk))

/-- A field without state has no stored bits, when the fields do not overlap. -/
theorem fieldMask_and_storedMask {w : Nat} {cfg : Params} {f : Field} {fs : List Field}
    (hd : fs.Pairwise fun f g => fieldMask w f &&& fieldMask w g = 0) (hf : f ∈ fs) (hs : f.holdsState cfg = false) :
    fieldMask w f &&& storedMask w cfg fs = 0 := by
  induction fs with
  | nil => cases hf
  | cons g fs ih =>
    obtain ⟨hg, hfs⟩ := List.pairwise_cons.mp hd
    rcases List.mem_cons.mp hf with rfl | hf
    · exact and_storedMask_cons (fun h => absurd (hs.symm.trans h) Bool.false_ne_true) (and_storedMask_eq_zero hg)
    · exact and_storedMask_cons (fun _ => (BitVec.and_comm _ _).trans (hg f hf)) (ih hfs hf)

/-- Bits outside the written mask stay. -/
theorem blend_outside {w : Nat} {x v m k : BitVec w} (h : k &&& m = 0) : ((x &&& ~~~m) ||| (v &&& m)) &&& k = x &&& k := by
  ext i hi
  have h1 := congrArg (fun b => b[i]) h
  simp only [BitVec.getElem_and, BitVec.getElem_or, BitVec.getElem_not] at h1 ⊢
  revert h1
  cases x[i] <;> cases v[i] <;> cases m[i] <;> cases k[i] <;> simp

theorem Field.mode_of_tagged {cfg : Params} {f : Field} (hi : f.inert = true) (ht : f.name ∈ cfg.tagged) :
    f.mode cfg = .tagged := by
  simp [Field.mode, hi, ht]

theorem taggedCount_ne_zero {cfg : Params} {f : Field} {fs : List Field} (hf : f ∈ fs) (hm : f.mode cfg = .tagged) :
    taggedCount cfg fs ≠ 0 := by
  induction fs with
  | nil => cases hf
  | cons g fs ih =>
    rw [taggedCount]
    rcases List.mem_cons.mp hf with rfl | hf
    · rw [if_pos hm]
      omega
    · have := ih hf
      omega

/-- A byte register with an inert field reads stored bits and zeros only, and its fields have no write effect
that changes state. -/
theorem quiet_silent_of_inert {r : Reg8} {f : Field} (hf : f ∈ fields8 r) (hi : f.inert = true) :
    (fields8 r).all Field.quiet = true ∧ (fields8 r).all Field.silent = true := by
  have h : (fields8 r).any Field.inert = true := List.any_eq_true.mpr ⟨f, hf, hi⟩
  cases r <;> revert h <;> decide

/-- The post-write hook appends to the history. -/
theorem hist_postWrite (r : Reg8) {s : State} {h : List Event} (hs : s.hist = h) :
    ∃ es, (postWrite r s).hist = h ++ es := by
  subst hs
  unfold postWrite
  split
  · rw [recompute_eq]
    exact ⟨_, rfl⟩
  · exact ⟨[], (List.append_nil _).symm⟩

/-- A write of a register without effects records its tagged fields' warnings, then what the hook records. -/
theorem hist_regWrite8_quiet {r : Reg8} (hq : (fields8 r).all Field.quiet = true) (hs : r.stores = true) (v : Byte)
    (s : State) : ∃ es, (regWrite8 r v s).hist = s.hist ++ tagLogs s r ++ es := by
  rw [regWrite8, writeFields_quiet (cell8 r hs) v _ hq]
  exact hist_postWrite r (congrArg (· ++ tagLogs s r) (put8_hist r _ s))

end Sys2Proof.Machine

namespace Sys2Proof.Claims

open Sys2Proof.Machine

/-- Settles O34: the tagged field's bits lie outside the stored bits, which are all that the read shows and the write changes;
the write's warnings include the field's own. -/
theorem taggedFieldReadsZeroAndIsLogged : Obligations.TaggedFieldReadsZeroAndIsLogged := by
  intro s dev off r f hr hf hi ht
  have hm : f.mode s.cfg = .tagged := Field.mode_of_tagged hi ht
  have hout : fieldMask 8 f &&& storedMask 8 s.cfg (fields8 r) = 0 :=
    fieldMask_and_storedMask (fields8_disjoint r) hf (by rw [Field.holdsState, hm])
  obtain ⟨hquiet, hsilent⟩ := quiet_silent_of_inert hf hi
  refine ⟨?_, fun v => ?_⟩
  · obtain ⟨i, hbr, ei⟩ := exec_byteRead hr
    refine ⟨i, _, _, hbr, ei s, rfl, ?_⟩
    rw [regRead8_silent r hsilent, BitVec.and_assoc, BitVec.and_comm _ (fieldMask 8 f), hout]
    exact BitVec.and_zero
  · obtain ⟨i, hbw, ei⟩ := exec_byteWrite hr v
    obtain ⟨es, he⟩ := hist_regWrite8_quiet hquiet (Reg8.stores_of_silent hsilent) v s
    refine ⟨i, _, hbw, ei s, ?_, _, he.trans (List.append_assoc _ _ _), ?_⟩
    · rw [get8_regWrite8_of_silent hsilent, blend_outside hout]
    · exact List.mem_append_left es (List.mem_replicate.mpr ⟨taggedCount_ne_zero hf hm, rfl⟩)

end Sys2Proof.Claims
end

section
/-! Legal wide accesses (40_regfile.md R101 to R104): the width adapter runs the byte accesses of the registers it covers, in
address order. -/

namespace Sys2Proof.Machine

open Sys2Proof.Claims

theorem regsAt_succ {dev : Device} {off n : Nat} {rs : List Reg8} (h : regsAt dev off (n + 1) = some rs) :
    ∃ r qs, byteReg dev off = some r ∧ regsAt dev (off + 1) n = some qs ∧ rs = r :: qs := by
  unfold regsAt at h
  split at h
  · rename_i r qs hr hqs
    exact ⟨r, qs, hr, hqs, (Option.some.inj h).symm⟩
  · cases h

/-- A legal 16-bit access covers two registers. -/
theorem regsAt_word {dev : Device} {o : BitVec 8} (hd : dev ≠ .syst) (h : wideLegal dev .word o = true) :
    ∃ r0 r1, byteReg dev o.toNat = some r0 ∧ byteReg dev (o.toNat + 1) = some r1 ∧
      regsAt dev o.toNat 2 = some [r0, r1] := by
  obtain ⟨rs, hrs⟩ := Option.isSome_iff_exists.mp ((regsAt_isSome dev hd .word o).trans h)
  obtain ⟨r0, rs0, h0, hrs0, rfl⟩ := regsAt_succ hrs
  obtain ⟨r1, rs1, h1, hrs1, rfl⟩ := regsAt_succ hrs0
  cases hrs1
  exact ⟨r0, r1, h0, h1, hrs⟩

/-- A legal 32-bit access covers four. -/
theorem regsAt_dword {dev : Device} {o : BitVec 8} (hd : dev ≠ .syst) (h : wideLegal dev .dword o = true) :
    ∃ r0 r1 r2 r3, byteReg dev o.toNat = some r0 ∧ byteReg dev (o.toNat + 1) = some r1 ∧
      byteReg dev (o.toNat + 2) = some r2 ∧ byteReg dev (o.toNat + 3) = some r3 ∧
      regsAt dev o.toNat 4 = some [r0, r1, r2, r3] := by
  obtain ⟨rs, hrs⟩ := Option.isSome_iff_exists.mp ((regsAt_isSome dev hd .dword o).trans h)
  obtain ⟨r0, rs0, h0, hrs0, rfl⟩ := regsAt_succ hrs
  obtain ⟨r1, rs1, h1, hrs1, rfl⟩ := regsAt_succ hrs0
  obtain ⟨r2, rs2, h2, hrs2, rfl⟩ := regsAt_succ hrs1
  obtain ⟨r3, rs3, h3, hrs3, rfl⟩ := regsAt_succ hrs2
  cases hrs3
  exact ⟨r0, r1, r2, r3, h0, h1, h2, h3, hrs⟩

/-- What the wide transactions of a byte-native device are: its legality check and its call of the width adapter. -/
theorem exec_wordRead {dev : Device} {o : BitVec 8} {i : Instr} (h : wordRead dev o = some i) :
    dev ≠ .syst ∧ i.wf = wideLegal dev .word o ∧ ∀ s, exec i s = wideRead16 dev o s := by
  cases dev <;> cases h <;> exact ⟨by decide, rfl, fun _ => rfl⟩

theorem exec_dwordRead {dev : Device} {o : BitVec 8} {i : Instr} (h : dwordRead dev o = some i) :
    dev ≠ .syst ∧ i.wf = wideLegal dev .dword o ∧ ∀ s, exec i s = wideRead32 dev o s := by
  cases dev <;> cases h <;> exact ⟨by decide, rfl, fun _ => rfl⟩

theorem exec_wordWrite {dev : Device} {o : BitVec 8} {v : BitVec 16} {i : Instr} (h : wordWrite dev o v = some i) :
    dev ≠ .syst ∧ i.wf = wideLegal dev .word o ∧ ∀ s, exec i s = wideWrite16 dev o v s := by
  cases dev <;> cases h <;> exact ⟨by decide, rfl, fun _ => rfl⟩

theorem exec_dwordWrite {dev : Device} {o : BitVec 8} {v : DWord} {i : Instr} (h : dwordWrite dev o v = some i) :
    dev ≠ .syst ∧ i.wf = wideLegal dev .dword o ∧ ∀ s, exec i s = wideWrite32 dev o v s := by
  cases dev <;> cases h <;> exact ⟨by decide, rfl, fun _ => rfl⟩

/-- A wide read of existing registers is their byte reads, joined. -/
theorem wideRead16_eq {dev : Device} {o : BitVec 8} {rs : List Reg8} (h : regsAt dev o.toNat 2 = some rs)
    {s t : State} {b0 b1 : Byte} (e : readSeq rs s = ([b0, b1], t)) :
    wideRead16 dev o s = .next (answer (.word (b0 ++ b1)) t) := by
  simp only [wideRead16, h, e, joinBytes_word]

theorem wideRead32_eq {dev : Device} {o : BitVec 8} {rs : List Reg8} (h : regsAt dev o.toNat 4 = some rs)
    {s t : State} {b0 b1 b2 b3 : Byte} (e : readSeq rs s = ([b0, b1, b2, b3], t)) :
    wideRead32 dev o s = .next (answer (.dword (b0 ++ b1 ++ b2 ++ b3)) t) := by
  simp only [wideRead32, h, e, joinBytes_dword]

/-- A wide write of existing registers is their byte writes. -/
theorem wideWrite16_eq {dev : Device} {o : BitVec 8} {rs : List Reg8} (h : regsAt dev o.toNat 2 = some rs) (v : BitVec 16)
    (s : State) : wideWrite16 dev o v s = .next (writeSeq rs [v.extractLsb' 8 8, v.extractLsb' 0 8] s) := by
  simp only [wideWrite16, h, splitBytes_word]

theorem wideWrite32_eq {dev : Device} {o : BitVec 8} {rs : List Reg8} (h : regsAt dev o.toNat 4 = some rs) (v : DWord)
    (s : State) : wideWrite32 dev o v s =
      .next (writeSeq rs [v.extractLsb' 24 8, v.extractLsb' 16 8, v.extractLsb' 8 8, v.extractLsb' 0 8] s) := by
  simp only [wideWrite32, h, splitBytes_dword]

end Sys2Proof.Machine

namespace Sys2Proof.Claims

open Sys2Proof.Machine

/-- Settles O46: the adapter's reads are the byte transactions' own, since no read sees the result the one before it left. -/
theorem wideReadIsByteReadsBackToBack : Obligations.WideReadIsByteReadsBackToBack := by
  refine ⟨?_, ?_⟩
  · intro s dev o i h hw
    obtain ⟨hd, hl, e⟩ := exec_wordRead h
    obtain ⟨r0, r1, h0, h1, hrs⟩ := regsAt_word hd (hl.symm.trans hw)
    obtain ⟨i0, hi0, e0⟩ := exec_byteRead h0
    obtain ⟨i1, hi1, e1⟩ := exec_byteRead h1
    refine ⟨i0, i1, _, _, _, _, hi0, hi1, e0 s, rfl, (e1 _).trans (read8_answer r1 _ _), rfl, ?_⟩
    rw [e, wideRead16_eq hrs rfl]
    rfl
  · intro s dev o i h hw
    obtain ⟨hd, hl, e⟩ := exec_dwordRead h
    obtain ⟨r0, r1, r2, r3, h0, h1, h2, h3, hrs⟩ := regsAt_dword hd (hl.symm.trans hw)
    obtain ⟨i0, hi0, e0⟩ := exec_byteRead h0
    obtain ⟨i1, hi1, e1⟩ := exec_byteRead h1
    obtain ⟨i2, hi2, e2⟩ := exec_byteRead h2
    obtain ⟨i3, hi3, e3⟩ := exec_byteRead h3
    refine ⟨i0, i1, i2, i3, _, _, _, _, _, _, _, _, hi0, hi1, hi2, hi3, e0 s, rfl,
      (e1 _).trans (read8_answer r1 _ _), rfl, (e2 _).trans (read8_answer r2 _ _), rfl,
      (e3 _).trans (read8_answer r3 _ _), rfl, ?_⟩
    rw [e, wideRead32_eq hrs rfl]
    rfl

/-- Settles O47: the adapter's writes are the byte transactions' own. -/
theorem wideWriteIsByteWritesBackToBack : Obligations.WideWriteIsByteWritesBackToBack := by
  refine ⟨?_, ?_⟩
  · intro s dev o v i h hw
    obtain ⟨hd, hl, e⟩ := exec_wordWrite h
    obtain ⟨r0, r1, h0, h1, hrs⟩ := regsAt_word hd (hl.symm.trans hw)
    obtain ⟨i0, hi0, e0⟩ := exec_byteWrite h0 (v.extractLsb' 8 8)
    obtain ⟨i1, hi1, e1⟩ := exec_byteWrite h1 (v.extractLsb' 0 8)
    refine ⟨i0, i1, _, hi0, hi1, ?_, (e s).trans (wideWrite16_eq hrs v s)⟩
    simp only [runAll, e0, e1, write8, writeSeq]
  · intro s dev o v i h hw
    obtain ⟨hd, hl, e⟩ := exec_dwordWrite h
    obtain ⟨r0, r1, r2, r3, h0, h1, h2, h3, hrs⟩ := regsAt_dword hd (hl.symm.trans hw)
    obtain ⟨i0, hi0, e0⟩ := exec_byteWrite h0 (v.extractLsb' 24 8)
    obtain ⟨i1, hi1, e1⟩ := exec_byteWrite h1 (v.extractLsb' 16 8)
    obtain ⟨i2, hi2, e2⟩ := exec_byteWrite h2 (v.extractLsb' 8 8)
    obtain ⟨i3, hi3, e3⟩ := exec_byteWrite h3 (v.extractLsb' 0 8)
    refine ⟨i0, i1, i2, i3, _, hi0, hi1, hi2, hi3, ?_, (e s).trans (wideWrite32_eq hrs v s)⟩
    simp only [runAll, e0, e1, e2, e3, write8, writeSeq]

end Sys2Proof.Claims
end

section
/-! Writing 16 bits and reading them back (40_regfile.md R105): two byte registers that each give back what was written to them,
since a byte write stores no other register's bits. -/

namespace Sys2Proof.Machine

open Sys2Proof.Claims

@[simp] theorem get8_flush (r : Reg8) (s : State) : get8 r (flush s) = get8 r s := by
  rw [flush_eq]
  cases r <;> rfl

@[simp] theorem get8_setTimer (r : Reg8) (t : TimerId) (x : Timer) (s : State) : get8 r (setTimer t x s) = get8 r s := by
  cases t <;> cases r <;> rfl

theorem get8_writeData (r : Reg8) (b : Byte) (s : State) : get8 r (writeData b s) = get8 r s := by
  rcases writeData_cases b s with ⟨-, e⟩ | ⟨-, e⟩ <;> rw [e]
  · exact get8_emit r _ s
  · rw [get8_recompute, get8_flush]
    cases r <;> rfl

/-- No write effect stores a byte register's bits (40_regfile.md R92). -/
@[simp] theorem get8_runEffect (r : Reg8) (e : Effect) (x y : DWord) (s : State) :
    get8 r (runEffect e x y s) = get8 r s := by
  cases e with
  | enable => rfl
  | reload =>
    rw [runEffect]
    split
    · exact get8_setTimer r _ _ s
    · rfl
  | timeout => exact get8_runEffect_timeout r x y s
  | writeData => exact get8_writeData r _ s

theorem get8_writeFields_ne {r q : Reg8} (h : r ≠ q) (v : Byte) (fs : List Field) (s : State) :
    get8 r (writeFields (get8 q) (put8 q) v fs s) = get8 r s := by
  induction fs generalizing s with
  | nil => rfl
  | cons f fs ih =>
    rw [writeFields, ih, writeField]
    split
    · rfl
    · exact get8_emit r _ s
    all_goals
      split
      · exact get8_put8_ne h _ s
      · rw [get8_runEffect, get8_put8_ne h]

@[simp] theorem get8_postWrite (r q : Reg8) (s : State) : get8 r (postWrite q s) = get8 r s := by
  unfold postWrite
  split
  · exact get8_recompute r s
  · rfl

/-- A byte write stores no other register's bits. -/
theorem get8_regWrite8_ne {r q : Reg8} (h : r ≠ q) (v : Byte) (s : State) : get8 r (regWrite8 q v s) = get8 r s := by
  rw [regWrite8, get8_postWrite, get8_writeFields_ne h]

/-- Under the parameters `p` the byte register stores any byte written to it and reads its stored byte (R105: no side effect
alters the value). -/
structure KeepsByte (p : Params) (r : Reg8) : Prop where
  read : ∀ s : State, s.cfg = p → regRead8 r s = (get8 r s, s)
  written : ∀ (v : Byte) (s : State), s.cfg = p → get8 r (regWrite8 r v s) = v

/-- A register with a silent read keeps its byte when all its bits are stored. -/
theorem keepsByte_of_silent {p : Params} {r : Reg8} (h : (fields8 r).all Field.silent = true)
    (hm : storedMask 8 p (fields8 r) = BitVec.allOnes 8) : KeepsByte p r where
  read s hs := by rw [regRead8_silent r h, hs, hm, BitVec.and_allOnes]
  written v s hs := by rw [get8_regWrite8_of_silent h, hs, hm, blend_allOnes]

/-- A register whose write has no effect keeps its byte when all its bits are stored and its read shows them. -/
theorem keepsByte_of_quiet {p : Params} {r : Reg8} (hq : (fields8 r).all Field.quiet = true) (hs : r.stores = true)
    (hm : storedMask 8 p (fields8 r) = BitVec.allOnes 8) (hread : ∀ s : State, s.cfg = p → regRead8 r s = (get8 r s, s)) :
    KeepsByte p r where
  read := hread
  written v s hp := by
    rw [regWrite8, get8_postWrite, writeFields_quiet (cell8 r hs) v _ hq, get8_emit, get8_put8 r hs, hp, hm, blend_allOnes]

/-- A register that is one field of eight bits stores all its bits when the field holds state. -/
theorem storedMask_one {p : Params} {r : Reg8} {f : Field} (h : fields8 r = [f]) (hl : f.lo = 0) (hw : f.width = 8)
    (hs : f.holdsState p = true) : storedMask 8 p (fields8 r) = BitVec.allOnes 8 := by
  rw [h, storedMask, storedMask, if_pos hs, fieldMask_byte f hl hw]
  exact BitVec.or_zero

theorem Field.holdsState_of_not_tagged {p : Params} {f : Field} (ha : f.access = .rw) (ht : f.name ∉ p.tagged) :
    f.holdsState p = true := by
  simp [Field.holdsState, Field.mode, ha, ht]

theorem keepsByte_winh {p : Params} (h : FieldName.wdogWinh ∉ p.tagged) : KeepsByte p .wdogWinh :=
  keepsByte_of_silent rfl (storedMask_one rfl rfl rfl (Field.holdsState_of_not_tagged rfl h))

theorem keepsByte_winl {p : Params} (h : FieldName.wdogWinl ∉ p.tagged) : KeepsByte p .wdogWinl :=
  keepsByte_of_silent rfl (storedMask_one rfl rfl rfl (Field.holdsState_of_not_tagged rfl h))

theorem drawCurrent_of_stored {w : Nat} {s : State} (h : s.cfg.currentRead = .stored) (stored live : BitVec w) :
    drawCurrent stored live s = (stored, s) := by
  rw [drawCurrent, h]

theorem keepsByte_cnth {p : Params} (h : p.currentRead = .stored) : KeepsByte p .wdogCnth :=
  keepsByte_of_quiet rfl rfl (storedMask_one rfl rfl rfl rfl) fun s hs =>
    (regRead8_cnth s).trans (drawCurrent_of_stored (hs ▸ h) _ _)

theorem keepsByte_cntl {p : Params} (h : p.currentRead = .stored) : KeepsByte p .wdogCntl :=
  keepsByte_of_quiet rfl rfl (storedMask_one rfl rfl rfl rfl) fun s hs =>
    (regRead8_cntl s).trans (drawCurrent_of_stored (hs ▸ h) _ _)

/-- Two such registers give back the two bytes written to them. -/
theorem readSeq_writeSeq_pair {r0 r1 : Reg8} (hne : r0 ≠ r1) {s : State} (h0 : KeepsByte s.cfg r0)
    (h1 : KeepsByte s.cfg r1) (a b : Byte) :
    readSeq [r0, r1] (writeSeq [r0, r1] [a, b] s) = ([a, b], writeSeq [r0, r1] [a, b] s) := by
  have hc : (writeSeq [r0, r1] [a, b] s).cfg = s.cfg := by simp only [writeSeq, regWrite8_cfg]
  have ha : get8 r0 (writeSeq [r0, r1] [a, b] s) = a := by
    simp only [writeSeq]
    rw [get8_regWrite8_ne hne, h0.written a s rfl]
  have hb : get8 r1 (writeSeq [r0, r1] [a, b] s) = b := h1.written b _ (regWrite8_cfg r0 a s)
  simp only [readSeq, h0.read _ hc, h1.read _ hc, ha, hb]

/-- So a 16-bit write and read over them gives the value back. -/
theorem word_write_read {dev : Device} {o : BitVec 8} {r0 r1 : Reg8} (hrs : regsAt dev o.toNat 2 = some [r0, r1])
    (hne : r0 ≠ r1) {s : State} (h0 : KeepsByte s.cfg r0) (h1 : KeepsByte s.cfg r1) (v : BitVec 16) :
    ∃ t u, wideWrite16 dev o v s = .next t ∧ wideRead16 dev o t = .next u ∧ u.rdata = .word v := by
  refine ⟨_, _, wideWrite16_eq hrs v s, wideRead16_eq hrs (readSeq_writeSeq_pair hne h0 h1 _ _), ?_⟩
  rw [answer_rdata, BitVec.extractLsb'_append_extractLsb'_eq_extractLsb' (start₂ := 8) (start₁ := 0) (len₁ := 8) rfl]
  exact congrArg Data.word BitVec.extractLsb'_eq_self

end Sys2Proof.Machine

namespace Sys2Proof.Claims

open Sys2Proof.Machine

/-- Settles O49: under its condition each of the three offsets covers two registers that keep their bytes. -/
theorem wideWriteThenReadReturnsTheValue : Obligations.WideWriteThenReadReturnsTheValue := by
  intro s o v h
  rcases h with rfl | ⟨rfl, hh, hl⟩ | ⟨rfl, hc⟩
  · exact word_write_read (dev := .wdog) (o := 4) (r0 := .wdogTovalh) (r1 := .wdogTovall) rfl (by decide)
      (keepsByte_of_silent rfl (storedMask_tovalh _)) (keepsByte_of_silent rfl (storedMask_tovall _)) v
  · exact word_write_read (dev := .wdog) (o := 6) rfl (by decide) (keepsByte_winh hh) (keepsByte_winl hl) v
  · exact word_write_read (dev := .wdog) (o := 2) rfl (by decide) (keepsByte_cnth hc) (keepsByte_cntl hc) v

end Sys2Proof.Claims
end

section
/-! The tick (41_timer_core.md R134, R135), one equation per branch. -/

namespace Sys2Proof.Machine

open Sys2Proof.Claims

theorem tick_of_disabled {t : TimerId} {s : State} (h : enabled t s = false) : tick t s = s :=
  if_pos h

/-- A Running timer below its limit counts. -/
theorem tick_of_below {t : TimerId} {s : State} (he : enabled t s = true)
    (hlt : (timer t s).count + 1 < (timer t s).limit) :
    tick t s = setTimer t { timer t s with count := (timer t s).count + 1 } s := by
  obtain ⟨hd, -⟩ | ⟨-, hz, -⟩ | ⟨-, -, -, e⟩ | ⟨-, -, hle, -⟩ := tick_cases t s
  · exact absurd (he.symm.trans hd) (by decide)
  · omega
  · exact e
  · omega

/-- A Running timer that its next count brings to a nonzero limit expires. -/
theorem tick_of_limit {t : TimerId} {s : State} (he : enabled t s = true) (hz : (timer t s).limit ≠ 0)
    (hle : (timer t s).limit ≤ (timer t s).count + 1) :
    tick t s = setTimer t { timer t s with count := 0 }
      { emit (expiryEvents t (irqEnabled t s)) s with resetPending := true } := by
  obtain ⟨hd, -⟩ | ⟨-, h0, -⟩ | ⟨-, -, hlt, -⟩ | ⟨-, -, -, e⟩ := tick_cases t s
  · exact absurd (he.symm.trans hd) (by decide)
  · exact absurd h0 hz
  · omega
  · exact e

end Sys2Proof.Machine

namespace Sys2Proof.Claims

open Sys2Proof.Machine

/-- Settles O50: the Disabled and the counting branch of the tick, at either timer. -/
theorem tickCountsWhileRunning : Obligations.TickCountsWhileRunning :=
  ⟨fun _ hd => congrArg _ (tick_of_disabled (t := .syst) hd),
    fun _ hd => congrArg _ (tick_of_disabled (t := .wdog) hd),
    fun _ he hlt => congrArg _ (tick_of_below (t := .syst) he hlt),
    fun _ he hlt => congrArg _ (tick_of_below (t := .wdog) he hlt)⟩

/-- Settles O51: the expiring branch of the tick, at either timer. -/
theorem tickExpiresAtTheLimit : Obligations.TickExpiresAtTheLimit :=
  ⟨fun _ he hz hle => congrArg _ (tick_of_limit (t := .syst) he hz hle),
    fun _ he hz hle => congrArg _ (tick_of_limit (t := .wdog) he hz hle)⟩

end Sys2Proof.Claims
end

section
/-! Runs of ticks (41_timer_core.md R142): a run of transactions, the tick iterated, and the writes that enable and disable a
timer without touching its count. -/

namespace Sys2Proof.Machine

open Sys2Proof.Claims

/-- A run goes on from the state its first part completes in. -/
theorem runAll_append {is : List Instr} {s t : State} (h : runAll is s = .next t) (js : List Instr) :
    runAll (is ++ js) s = runAll js t := by
  induction is generalizing s with
  | nil => cases h; rfl
  | cons i is ih =>
    rw [runAll] at h
    rw [List.cons_append, runAll]
    cases e : exec i s with
    | next u => rw [e] at h; exact ih h
    | _ => rw [e] at h; cases h

theorem runAll_cons {i : Instr} {s t : State} (h : exec i s = .next t) (is : List Instr) :
    runAll (i :: is) s = runAll is t := by
  rw [runAll, h]

/-- The tick transaction of a timer (R140, R141). -/
def tickInstr : TimerId → Instr
  | .syst => .tickSyst
  | .wdog => .tickWdog

theorem exec_tickInstr (t : TimerId) (s : State) : exec (tickInstr t) s = .next (tick t s) := by
  cases t <;> rfl

theorem runAll_ticks (t : TimerId) (n : Nat) (s : State) :
    runAll (List.replicate n (tickInstr t)) s = .next ((tick t)^[n] s) := by
  induction n generalizing s with
  | zero => rfl
  | succ n ih => rw [List.replicate_succ, runAll_cons (exec_tickInstr t s), ih, Function.iterate_succ_apply]

@[simp] theorem enabled_setTimer (t : TimerId) (x : Timer) (s : State) : enabled t (setTimer t x s) = enabled t s := by
  cases t <;> rfl

@[simp] theorem setTimer_setTimer (t : TimerId) (x y : Timer) (s : State) :
    setTimer t x (setTimer t y s) = setTimer t x s := by
  cases t <;> rfl

@[simp] theorem setTimer_timer (t : TimerId) (s : State) : setTimer t (timer t s) s = s := by
  cases t <;> rfl

/-- Ticks of a Running timer that stay below its limit count and do nothing else. -/
theorem iterate_tick_of_below {t : TimerId} {s : State} (he : enabled t s = true) {n : Nat}
    (hlt : (timer t s).count + n < (timer t s).limit) :
    (tick t)^[n] s = setTimer t { timer t s with count := (timer t s).count + n } s := by
  induction n with
  | zero => exact (setTimer_timer t s).symm
  | succ n ih =>
    rw [Function.iterate_succ_apply', ih (by omega), tick_of_below (by rwa [enabled_setTimer]) (by rwa [timer_setTimer]),
      timer_setTimer, setTimer_setTimer, Nat.add_assoc]

/-- The number of expiries is read off the history. -/
theorem expiries_setTimer (t : TimerId) (x : Timer) (s : State) : expiries t (setTimer t x s) = expiries t s := by
  rw [expiries, setTimer_hist, expiries]

/-- An expiry's events hold one reset request, pulse or none (R135). -/
theorem countP_expiryEvents (t : TimerId) (ie : Bool) :
    (expiryEvents t ie).countP (fun e => decide (e = .resetRequest t)) = 1 := by
  cases t <;> cases ie <;> decide

/-- The expiring tick restarts the count, requests the reset and adds one expiry. -/
theorem tick_of_limit_expires {t : TimerId} {s : State} (he : enabled t s = true) (hz : (timer t s).limit ≠ 0)
    (hle : (timer t s).limit ≤ (timer t s).count + 1) :
    (timer t (tick t s)).count = 0 ∧ (tick t s).resetPending = true ∧ expiries t (tick t s) = expiries t s + 1 := by
  rw [tick_of_limit he hz hle]
  refine ⟨by rw [timer_setTimer], setTimer_resetPending t _ _, ?_⟩
  rw [expiries_setTimer, expiries, expiries, ← countP_expiryEvents t (irqEnabled t s), ← List.countP_append]
  rfl

/-- Exactly as many ticks of a Running timer as its limit, from a count of 0. -/
theorem iterate_tick_limit {t : TimerId} {s : State} (he : enabled t s = true) (h0 : (timer t s).count = 0)
    (hl : 1 ≤ (timer t s).limit) :
    (timer t ((tick t)^[(timer t s).limit] s)).count = 0 ∧ ((tick t)^[(timer t s).limit] s).resetPending = true ∧
      expiries t ((tick t)^[(timer t s).limit] s) = expiries t s + 1 := by
  obtain ⟨m, hm⟩ := Nat.exists_eq_add_of_le' hl
  have hlast := iterate_tick_of_below he (n := m) (by omega)
  rw [hm, Function.iterate_succ_apply', hlast, ← expiries_setTimer t _ s]
  refine tick_of_limit_expires (by rwa [enabled_setTimer]) ?_ ?_ <;> rw [timer_setTimer] <;> dsimp only <;> omega

/-- A write of the timer's control register that leaves its enable field at `en`: it completes and touches neither the counter nor
the reset request, and records no expiry. -/
def WritesEnable (t : TimerId) (en : Bool) (i : Instr) : Prop :=
  ∀ s, ∃ u, exec i s = .next u ∧ enabled t u = en ∧ timer t u = timer t s ∧ u.resetPending = s.resetPending ∧
    expiries t u = expiries t s

/-- A stored bit takes the written value. -/
theorem getLsbD_blend {w i : Nat} {x v m : BitVec w} (h : m.getLsbD i = true) :
    ((x &&& ~~~m) ||| (v &&& m)).getLsbD i = v.getLsbD i := by
  simp [h]

/-- Warnings are no expiries. -/
theorem expiries_emit_log (t : TimerId) (n : Nat) (k : LogKind) (s : State) :
    expiries t (emit (List.replicate n (.log k)) s) = expiries t s := by
  simp [expiries, List.countP_replicate]

/-- The bits of a field that holds state are stored. -/
theorem getLsbD_storedMask {w i : Nat} {cfg : Params} {f : Field} {fs : List Field} (hf : f ∈ fs)
    (hs : f.holdsState cfg = true) (hb : (fieldMask w f).getLsbD i = true) :
    (storedMask w cfg fs).getLsbD i = true := by
  have h := congrArg (fun b : BitVec w => b.getLsbD i) (fieldMask_stored hf hs)
  simpa [hb, BitVec.lt_of_getLsbD hb] using h

/-- A write of SYST CSR (42_systick.md R151). -/
theorem writesEnable_csr (v : DWord) : WritesEnable .syst (v.getLsbD 0) (.wr32SystCsr v) := fun s =>
  ⟨_, congrArg Host.Outcome.next (regWrite32_quiet .csr rfl rfl v s),
    getLsbD_blend (getLsbD_storedMask (f := effectField .systEnable 0 1 .enable) (by decide) rfl (by decide)),
    rfl, rfl, expiries_emit_log .syst _ _ _⟩

/-- A write of WDOG CS1 (43_watchdog.md R181). -/
theorem writesEnable_cs1 (v : Byte) : WritesEnable .wdog (v.getLsbD 7) (.wr8WdogCs1 v) := fun s =>
  ⟨_, congrArg Host.Outcome.next (regWrite8_quiet .wdogCs1 rfl rfl (by decide) v s),
    getLsbD_blend (getLsbD_storedMask (f := effectField .cs1En 7 1 .enable) (by decide) rfl (by decide)),
    rfl, rfl, expiries_emit_log .wdog _ _ _⟩

/-- R142's first sentence: enabling, then ticks. -/
theorem runAll_enable_ticks {t : TimerId} {i : Instr} (hi : WritesEnable t true i) (n : Nat) {s : State}
    (h0 : (timer t s).count = 0) (hl : 1 ≤ (timer t s).limit) :
    ∃ u, runAll (i :: List.replicate n (tickInstr t)) s = .next u ∧
      (n < (timer t s).limit → (timer t u).count = n ∧ expiries t u = expiries t s) ∧
      (n = (timer t s).limit → (timer t u).count = 0 ∧ u.resetPending = true ∧ expiries t u = expiries t s + 1) := by
  obtain ⟨u, hu, he, ht, -, hx⟩ := hi s
  rw [← ht] at h0 hl ⊢
  refine ⟨_, (runAll_cons hu _).trans (runAll_ticks t n u), fun hlt => ?_, ?_⟩
  · rw [iterate_tick_of_below he (by omega), timer_setTimer, expiries_setTimer]
    exact ⟨by rw [h0, Nat.zero_add], hx⟩
  · rintro rfl
    rw [← hx]
    exact iterate_tick_limit he h0 hl

/-- R142's second sentence: enabling, ticks below the limit, disabling, then any ticks. -/
theorem runAll_enable_ticks_disable {t : TimerId} {i j : Instr} (hi : WritesEnable t true i) (hj : WritesEnable t false j)
    {k : Nat} (m : Nat) {s : State} (h0 : (timer t s).count = 0) (hk : k < (timer t s).limit) :
    ∃ u, runAll (i :: List.replicate k (tickInstr t) ++ j :: List.replicate m (tickInstr t)) s = .next u ∧
      (timer t u).count = k ∧ u.resetPending = s.resetPending ∧ expiries t u = expiries t s := by
  obtain ⟨a, ha, hen, hta, hpa, hxa⟩ := hi s
  rw [← hta] at h0 hk
  have hcount := iterate_tick_of_below hen (n := k) (by omega)
  obtain ⟨b, hb, hdis, htb, hpb, hxb⟩ := hj ((tick t)^[k] a)
  rw [hcount] at htb hpb hxb
  refine ⟨b, ?_, ?_, ?_, ?_⟩
  · rw [runAll_append ((runAll_cons ha _).trans (runAll_ticks t k a)), runAll_cons hb, runAll_ticks,
      Function.iterate_fixed (tick_of_disabled hdis)]
  · rw [htb, timer_setTimer, h0, Nat.zero_add]
  · rw [hpb, setTimer_resetPending, hpa]
  · rw [hxb, expiries_setTimer, hxa]

end Sys2Proof.Machine

namespace Sys2Proof.Claims

open Sys2Proof.Machine

/-- Settles O53: ticks below the limit only count, the next one expires, and a Disabled timer's ticks do nothing; SYST is enabled
by bit 0 of CSR and WDOG by bit 7 of CS1. -/
theorem exactlyLimitTicksExpireOnce : Obligations.ExactlyLimitTicksExpireOnce :=
  ⟨fun _ v n h0 hl hv => runAll_enable_ticks (t := .syst) (hv ▸ writesEnable_csr v) n h0 hl,
    fun _ v w _ m h0 hk hv hw =>
      runAll_enable_ticks_disable (t := .syst) (hv ▸ writesEnable_csr v) (hw ▸ writesEnable_csr w) m h0 hk,
    fun _ v n h0 hl hv => runAll_enable_ticks (t := .wdog) (hv ▸ writesEnable_cs1 v) n h0 hl,
    fun _ v w _ m h0 hk hv hw =>
      runAll_enable_ticks_disable (t := .wdog) (hv ▸ writesEnable_cs1 v) (hw ▸ writesEnable_cs1 w) m h0 hk⟩

end Sys2Proof.Claims
end

section
/-! Noninterference of the devices (41_timer_core.md R140, 46_host_events.md R290): a transaction that decodes to an access or an
event of a device changes that device, the history and the read result, and nothing of another device. -/

namespace Sys2Proof

/-- The device a descriptor names in its DEV field (30_encoding.md R74); MACHINE is none. -/
def Desc.device : Desc → Option Device
  | .access dev _ _ _ => some dev
  | .rxPush _ => some .uart
  | .tick .syst => some .syst
  | .tick .wdog => some .wdog
  | .reset dev => some dev
  | .machineReset => none

theorem devField_accDesc (dev : Device) (write : Bool) (w : Width) (off : BitVec 8) :
    descField (accDesc dev write.toNat w off) 11 3 = dev.code := by
  have hdev : dev.code < 4 := by cases dev <;> decide
  have hw : w.code < 3 := by cases w <;> decide
  have hwrite := write.toNat_lt
  have hoff := off.isLt
  rw [descField, accDesc_toNat, Nat.shiftRight_eq_div_pow]
  omega

theorem devField_rxpushDesc (b : Byte) : descField (evtDesc 2 2 b) 11 3 = 2 := by
  have hb := b.isLt
  rw [descField, rxpushDesc_toNat, Nat.shiftRight_eq_div_pow]
  omega

/-- The DEV field of a descriptor: its device's code, or 7 for MACHINE. -/
theorem devField_word (x : Desc) : descField x.word 11 3 = x.device.elim 7 Device.code := by
  cases x with
  | access dev write w off => exact devField_accDesc dev write w off
  | rxPush b => exact devField_rxpushDesc b
  | tick t => cases t <;> decide
  | reset dev => cases dev <;> decide
  | machineReset => decide

theorem Device.code_injective : Function.Injective Device.code := by
  intro a b h
  cases a <;> cases b <;> first | rfl | exact absurd h (by decide)

theorem Desc.device_eq_some {x : Desc} {dev : Device} (h : descField x.word 11 3 = dev.code) : x.device = some dev := by
  rw [devField_word] at h
  cases hd : x.device with
  | none => rw [hd] at h; cases dev <;> exact absurd h (by decide)
  | some d => rw [hd] at h; rw [Device.code_injective h]

theorem Desc.eq_machineReset {x : Desc} (h : x.device = none) : x = .machineReset := by
  cases x with
  | machineReset => rfl
  | tick t => cases t <;> cases h
  | _ => cases h

end Sys2Proof

namespace Sys2Proof.Machine

open Sys2Proof.Claims

/-- The state with everything that a transaction of the device can change overwritten by fixed values. -/
def eraseDevice (dev : Device) (s : State) : State :=
  match dev with
  | .syst => { s with
      syst := .reset s.cfg, tS := ⟨0, 0⟩, resetPending := false, fault := none, hist := [], rdata := .none, draws := 0 }
  | .wdog => { s with
      wdog := .reset s.cfg, tW := ⟨0, 0⟩, resetPending := false, fault := none, hist := [], rdata := .none, draws := 0 }
  | .uart => { s with
      uart := .reset s.cfg, txq := [], uartIrq := false, rxbuf := [], hist := [], rdata := .none }
  | .ics => { s with ics := .reset s.cfg, hist := [], rdata := .none }

/-- The step from `s` to `t` changes nothing but what the device owns: its registers, timer, queue, line and buffer, with the
history and the read result, and for a timer's device the reset request, the fault and the draws. -/
def KeepsOthers (dev : Device) (s t : State) : Prop :=
  eraseDevice dev t = eraseDevice dev s

theorem KeepsOthers.trans {dev : Device} {a b c : State} (h : KeepsOthers dev a b) (h' : KeepsOthers dev b c) :
    KeepsOthers dev a c :=
  Eq.trans h' h

/-- A part of the state that the device does not own is the same. -/
theorem KeepsOthers.same {α : Type} {dev : Device} {s t : State} (h : KeepsOthers dev s t) (f : State → α)
    (hf : ∀ u, f (eraseDevice dev u) = f u := by intro; rfl) : f t = f s :=
  (hf t).symm.trans ((congrArg f h).trans (hf s))

theorem KeepsOthers.of_syst {s t : State} (h : KeepsOthers .syst s t) :
    t.wdog = s.wdog ∧ t.tW = s.tW ∧ t.uart = s.uart ∧ t.txq = s.txq ∧ t.uartIrq = s.uartIrq ∧ t.rxbuf = s.rxbuf ∧
      t.ics = s.ics :=
  ⟨h.same State.wdog, h.same State.tW, h.same State.uart, h.same State.txq, h.same State.uartIrq,
    h.same State.rxbuf, h.same State.ics⟩

theorem KeepsOthers.of_wdog {s t : State} (h : KeepsOthers .wdog s t) :
    t.syst = s.syst ∧ t.tS = s.tS ∧ t.uart = s.uart ∧ t.txq = s.txq ∧ t.uartIrq = s.uartIrq ∧ t.rxbuf = s.rxbuf ∧
      t.ics = s.ics :=
  ⟨h.same State.syst, h.same State.tS, h.same State.uart, h.same State.txq, h.same State.uartIrq,
    h.same State.rxbuf, h.same State.ics⟩

theorem KeepsOthers.of_uart {s t : State} (h : KeepsOthers .uart s t) :
    t.syst = s.syst ∧ t.tS = s.tS ∧ t.wdog = s.wdog ∧ t.tW = s.tW ∧ t.ics = s.ics ∧
      t.resetPending = s.resetPending ∧ t.fault = s.fault :=
  ⟨h.same State.syst, h.same State.tS, h.same State.wdog, h.same State.tW, h.same State.ics,
    h.same State.resetPending, h.same State.fault⟩

theorem KeepsOthers.of_ics {s t : State} (h : KeepsOthers .ics s t) :
    t.syst = s.syst ∧ t.tS = s.tS ∧ t.wdog = s.wdog ∧ t.tW = s.tW ∧ t.uart = s.uart ∧ t.txq = s.txq ∧
      t.uartIrq = s.uartIrq ∧ t.rxbuf = s.rxbuf ∧ t.resetPending = s.resetPending ∧ t.fault = s.fault :=
  ⟨h.same State.syst, h.same State.tS, h.same State.wdog, h.same State.tW, h.same State.uart,
    h.same State.txq, h.same State.uartIrq, h.same State.rxbuf, h.same State.resetPending,
    h.same State.fault⟩

theorem KeepsOthers.pending {dev : Device} {s t : State} (h : KeepsOthers dev s t) : t.pending = s.pending := by
  cases dev <;> exact h.same State.pending

theorem keepsOthers_answer (dev : Device) (d : Data) (s : State) : KeepsOthers dev s (answer d s) := by
  cases dev <;> rfl

theorem keepsOthers_regWrite8 (r : Reg8) (v : Byte) (s : State) : KeepsOthers r.device s (regWrite8 r v s) := by
  cases h : r.device with
  | syst => cases r <;> cases h
  | wdog => obtain ⟨_, _, _, e⟩ := regWrite8_wdog r h v s; rw [e]; rfl
  | uart => obtain ⟨_, _, _, _, e⟩ := regWrite8_uart r h v s; rw [e]; rfl
  | ics => obtain ⟨_, _, e⟩ := regWrite8_ics r h v s; rw [e]; rfl

theorem keepsOthers_regRead8 (r : Reg8) (s : State) : KeepsOthers r.device s (regRead8 r s).2 := by
  cases h : r.device with
  | syst => cases r <;> cases h
  | wdog => obtain ⟨_, e⟩ := regRead8_wdog r h s; rw [e]; rfl
  | uart => obtain ⟨_, _, _, e⟩ := regRead8_uart r h s; rw [e]; rfl
  | ics => rw [regRead8_ics r h]; rfl

theorem keepsOthers_regWrite32 (r : Reg32) (v : DWord) (s : State) : KeepsOthers .syst s (regWrite32 r v s) := by
  cases r with
  | csr => rw [regWrite32_quiet .csr rfl rfl]; rfl
  | rvr =>
    rw [regWrite32_rvr, runEffect]
    split <;> rfl
  | cvr => rw [regWrite32_quiet .cvr rfl rfl]; rfl
  | calib => rfl

theorem keepsOthers_regRead32 (r : Reg32) (s : State) : KeepsOthers .syst s (regRead32 r s).2 := by
  cases r with
  | csr => rw [regRead32_silent .csr rfl]; rfl
  | rvr => rw [regRead32_silent .rvr rfl]; rfl
  | cvr =>
    rw [regRead32_cvr]
    obtain ⟨-, e⟩ | ⟨-, e⟩ | ⟨-, e | e⟩ := drawCurrent_cases (currentField s) (liveSyst s) s <;> rw [e] <;> rfl
  | calib => rw [regRead32_calib]; rfl

/-- The width adapter accesses the registers of its device only (40_regfile.md R101). -/
theorem keepsOthers_readSeq {dev : Device} {off n : Nat} {rs : List Reg8} (h : regsAt dev off n = some rs) (s : State) :
    KeepsOthers dev s (readSeq rs s).2 :=
  readSeq_rel (R := KeepsOthers dev) (fun _ => rfl) KeepsOthers.trans
    (fun r hr s => regsAt_device h r hr ▸ keepsOthers_regRead8 r s) s

theorem keepsOthers_writeSeq {dev : Device} {off n : Nat} {rs : List Reg8} (h : regsAt dev off n = some rs)
    (bs : List Byte) (s : State) : KeepsOthers dev s (writeSeq rs bs s) :=
  writeSeq_rel (R := KeepsOthers dev) (fun _ => rfl) KeepsOthers.trans
    (fun r hr v s => regsAt_device h r hr ▸ keepsOthers_regWrite8 r v s) bs s

theorem keepsOthers_recompute (s : State) : KeepsOthers .uart s (recompute s) := by
  rw [recompute_eq]; rfl

theorem keepsOthers_tick_syst (s : State) : KeepsOthers .syst s (tick .syst s) := by
  obtain ⟨-, e⟩ | ⟨-, -, e⟩ | ⟨-, -, -, e⟩ | ⟨-, -, -, e⟩ := tick_cases .syst s <;> rw [e] <;> rfl

theorem keepsOthers_tick_wdog (s : State) : KeepsOthers .wdog s (tick .wdog s) := by
  obtain ⟨-, e⟩ | ⟨-, -, e⟩ | ⟨-, -, -, e⟩ | ⟨-, -, -, e⟩ := tick_cases .wdog s <;> rw [e] <;> rfl

theorem keepsOthers_rxPush (b : Byte) (s : State) : KeepsOthers .uart s (rxPush b s) := by
  unfold rxPush
  split
  · exact KeepsOthers.trans rfl (keepsOthers_recompute _)
  · rfl

theorem keepsOthers_resetUart (s : State) : KeepsOthers .uart s (resetUart s) := by
  rw [resetUart_eq]
  exact KeepsOthers.trans rfl (keepsOthers_recompute _)

theorem keepsOthers_resetSyst (s : State) : KeepsOthers .syst s (resetSyst s) := by rw [resetSyst_eq]; rfl

theorem keepsOthers_resetWdog (s : State) : KeepsOthers .wdog s (resetWdog s) := by rw [resetWdog_eq]; rfl

theorem keepsOthers_resetIcs (s : State) : KeepsOthers .ics s (resetIcs s) := by rw [resetIcs_eq]; rfl

@[simp] theorem machineReset_pending (s : State) : (machineReset s).pending = s.pending := by
  rw [machineReset_eq, recompute_eq]

theorem keepsOthers_read32 {r : Reg32} {s t : State} (e : read32 r s = .next t) : KeepsOthers .syst s t := by
  cases e
  exact (keepsOthers_regRead32 r s).trans (keepsOthers_answer _ _ _)

theorem keepsOthers_write32 {r : Reg32} {v : DWord} {s t : State} (e : write32 r v s = .next t) :
    KeepsOthers .syst s t := by
  cases e
  exact keepsOthers_regWrite32 r v s

theorem keepsOthers_systRead {n : Nat} {i : Instr} (h : systRead n = some i) {s t : State} (e : exec i s = .next t) :
    KeepsOthers .syst s t := by
  unfold systRead at h
  split at h <;> cases h <;> exact keepsOthers_read32 e

theorem keepsOthers_systWrite {n : Nat} {v : DWord} {i : Instr} (h : systWrite n v = some i) {s t : State}
    (e : exec i s = .next t) : KeepsOthers .syst s t := by
  unfold systWrite at h
  split at h <;> cases h <;> exact keepsOthers_write32 e

theorem keepsOthers_read8 {dev : Device} {r : Reg8} (hr : r.device = dev) {s t : State} (e : read8 r s = .next t) :
    KeepsOthers dev s t := by
  cases e
  exact hr ▸ (keepsOthers_regRead8 r s).trans (keepsOthers_answer _ _ _)

theorem keepsOthers_write8 {dev : Device} {r : Reg8} {v : Byte} (hr : r.device = dev) {s t : State}
    (e : write8 r v s = .next t) : KeepsOthers dev s t := by
  cases e
  exact hr ▸ keepsOthers_regWrite8 r v s

theorem keepsOthers_wideRead16 {dev : Device} {off : BitVec 8} {s t : State} (e : wideRead16 dev off s = .next t) :
    KeepsOthers dev s t := by
  unfold wideRead16 at e
  split at e <;> cases e
  exact (keepsOthers_readSeq (by assumption) s).trans (keepsOthers_answer _ _ _)

theorem keepsOthers_wideRead32 {dev : Device} {off : BitVec 8} {s t : State} (e : wideRead32 dev off s = .next t) :
    KeepsOthers dev s t := by
  unfold wideRead32 at e
  split at e <;> cases e
  exact (keepsOthers_readSeq (by assumption) s).trans (keepsOthers_answer _ _ _)

theorem keepsOthers_wideWrite16 {dev : Device} {off : BitVec 8} {v : BitVec 16} {s t : State}
    (e : wideWrite16 dev off v s = .next t) : KeepsOthers dev s t := by
  unfold wideWrite16 at e
  split at e <;> cases e
  exact keepsOthers_writeSeq (by assumption) _ s

theorem keepsOthers_wideWrite32 {dev : Device} {off : BitVec 8} {v : DWord} {s t : State}
    (e : wideWrite32 dev off v s = .next t) : KeepsOthers dev s t := by
  unfold wideWrite32 at e
  split at e <;> cases e
  exact keepsOthers_writeSeq (by assumption) _ s

/-- A read that completes keeps the other devices. -/
theorem keepsOthers_readAccess {dev : Device} {w : Width} {off : BitVec 8} {i : Instr}
    (hl : (Desc.access dev false w off).legal) (h : readAccess dev w off = some i) {s t : State}
    (e : exec i s = .next t) : KeepsOthers dev s t := by
  cases w with
  | byte =>
    obtain ⟨r, hr⟩ := exists_byteReg_of_legal hl
    rw [readAccess_byte] at h
    exact keepsOthers_read8 (byteReg_device hr) (exec_eq_read8 h hr s ▸ e)
  | word =>
    cases dev with
    | syst => cases h
    | _ => cases h; exact keepsOthers_wideRead16 e
  | dword =>
    cases dev with
    | syst => exact keepsOthers_systRead h e
    | _ => cases h; exact keepsOthers_wideRead32 e

/-- A write that completes keeps the other devices. -/
theorem keepsOthers_writeAccess {dev : Device} {w : Width} {off : BitVec 8} {d : Data} {i : Instr}
    (hl : (Desc.access dev true w off).legal) (hw : d.width = some w) (h : writeAccess dev off d = some i) {s t : State}
    (e : exec i s = .next t) : KeepsOthers dev s t := by
  cases d with
  | none => cases hw
  | byte v =>
    cases hw
    obtain ⟨r, hr⟩ := exists_byteReg_of_legal hl
    rw [writeAccess_byte] at h
    exact keepsOthers_write8 (byteReg_device hr) (exec_eq_write8 h hr s ▸ e)
  | word v =>
    cases dev with
    | syst => cases h
    | _ => cases h; exact keepsOthers_wideWrite16 e
  | dword v =>
    cases dev with
    | syst => exact keepsOthers_systWrite h e
    | _ => cases h; exact keepsOthers_wideWrite32 e

/-- An event of a device keeps the other devices. -/
theorem keepsOthers_eventInstr {x : Desc} {dev : Device} {i : Instr} (hx : x.device = some dev)
    (h : eventInstr x = some i) {s t : State} (e : exec i s = .next t) : KeepsOthers dev s t := by
  unfold eventInstr at h
  split at h <;> cases h <;> cases hx <;> cases e
  · exact keepsOthers_rxPush _ s
  · exact keepsOthers_tick_syst s
  · exact keepsOthers_tick_wdog s
  · exact keepsOthers_resetSyst s
  · exact keepsOthers_resetWdog s
  · exact keepsOthers_resetUart s
  · exact keepsOthers_resetIcs s

/-- A completed transaction of a descriptor of a device keeps the other devices. -/
theorem keepsOthers_instrOf {x : Desc} {d : Data} {dev : Device} {i : Instr} (hl : x.legal)
    (hx : x.device = some dev) (h : instrOf x d = some i) {s t : State} (e : exec i s = .next t) :
    KeepsOthers dev s t := by
  unfold instrOf at h
  split at h <;> obtain ⟨hw, h⟩ := Option.ite_none_right_eq_some.mp h
  · cases hx
    exact keepsOthers_readAccess hl h e
  · cases hx
    exact keepsOthers_writeAccess hl hw h e
  · exact keepsOthers_eventInstr hx h e

/-- A transaction that completes is well-formed, so it is the one its encoding decodes to (30_encoding.md R78, R82). -/
theorem exists_desc_of_exec {i : Instr} {s t : State} (e : exec i s = .next t) :
    ∃ x d, x.legal ∧ (encode i).desc = x.word ∧ instrOf x d = some i := by
  have hwf : i.wf = true := by
    cases h : i.wf with
    | true => rfl
    | false => cases (wideAccessBeyondTheSizeIsRefused s i h).symm.trans e
  obtain ⟨x, hx, hi⟩ := decode_cases (encodedTransactionDecodesToItself i hwf)
  obtain ⟨hword, hlegal⟩ := decodeDesc_sound hx
  exact ⟨x, _, hlegal, hword.symm, hi⟩

/-- A completed transaction with a device's code in the DEV field keeps the other devices. -/
theorem keepsOthers_of_devField {i : Instr} {s t : State} (e : exec i s = .next t) {dev : Device}
    (h : descField (encode i).desc 11 3 = dev.code) : KeepsOthers dev s t := by
  obtain ⟨x, d, hl, hword, hi⟩ := exists_desc_of_exec e
  exact keepsOthers_instrOf hl (Desc.device_eq_some (hword ▸ h)) hi e

/-- No transaction takes one off the queue or offers one (20_memory.md R62). -/
theorem exec_pending {i : Instr} {s t : State} (e : exec i s = .next t) : t.pending = s.pending := by
  obtain ⟨x, d, hl, -, hi⟩ := exists_desc_of_exec e
  cases hd : x.device with
  | some dev => exact (keepsOthers_instrOf hl hd hi e).pending
  | none =>
    cases Desc.eq_machineReset hd
    obtain ⟨-, hi⟩ := Option.ite_none_right_eq_some.mp hi
    cases hi
    cases e
    exact machineReset_pending s

end Sys2Proof.Machine

namespace Sys2Proof.Claims

open Sys2Proof.Machine

/-- Settles O18: by the DEV field a completed transaction is an access or an event of that device, and each of these keeps
everything the device does not own. -/
theorem transactionChangesItsDeviceOnly : Obligations.TransactionChangesItsDeviceOnly := fun _ _ _ e =>
  ⟨fun h => (keepsOthers_of_devField (dev := .syst) e h).of_syst,
    fun h => (keepsOthers_of_devField (dev := .wdog) e h).of_wdog,
    fun h => (keepsOthers_of_devField (dev := .uart) e h).of_uart,
    fun h => (keepsOthers_of_devField (dev := .ics) e h).of_ics, exec_pending e⟩

end Sys2Proof.Claims
end

section
/-! The SYST registers (42_systick.md R151 to R156): the bits each register stores, and what a write stores when no bit outside
them is set before it. -/

namespace Sys2Proof.Machine

open Sys2Proof.Claims

/-- CSR stores ENABLE, TICKINT and, as storage, CLKSOURCE (10_state.md R23; 40_regfile.md R95). -/
theorem storedMask_csr (p : Params) :
    storedMask 32 p (fields32 .csr) = if p.tagged.contains .systClksource then 3 else 7 := by
  simp only [fields32, storedMask, Field.holdsState, Field.mode, effectField, plainField, inertField, computedField,
    Bool.true_and, Bool.false_and]
  cases p.tagged.contains .systClksource <;> decide

/-- CLKSOURCE is the only CSR field that can be tagged. -/
theorem taggedCount_csr (p : Params) :
    taggedCount p (fields32 .csr) = if p.tagged.contains .systClksource then 1 else 0 := by
  simp only [fields32, taggedCount, Field.mode, effectField, plainField, inertField, computedField,
    Bool.true_and, Bool.false_and]
  cases p.tagged.contains .systClksource <;> decide

/-- RVR and CVR are one field of 24 bits each that is never tagged (10_state.md R24, R25). -/
theorem storedMask_rvr (p : Params) : storedMask 32 p (fields32 .rvr) = 0xFFFFFF := by
  simp only [fields32, storedMask, Field.holdsState, Field.mode, effectField, Bool.false_and]
  decide

theorem storedMask_cvr (p : Params) : storedMask 32 p (fields32 .cvr) = 0xFFFFFF := by
  simp only [fields32, storedMask, Field.holdsState, Field.mode, Bool.false_and]
  decide

theorem taggedCount_cvr (p : Params) : taggedCount p (fields32 .cvr) = 0 := rfl

/-- From clean registers a write leaves exactly the written bits that the register stores (40_regfile.md R92). -/
theorem blend32_of_clean {s : State} (h : RegsClean s) (r : Reg32) (v : DWord) :
    (get32 r s &&& ~~~storedMask 32 s.cfg (fields32 r)) ||| (v &&& storedMask 32 s.cfg (fields32 r)) =
      v &&& storedMask 32 s.cfg (fields32 r) := by
  obtain ⟨-, h32⟩ := h
  rw [h32 r]
  exact BitVec.zero_or

/-- A write of CSR or CVR from clean registers: the stored bits and the warnings, nothing else. -/
theorem regWrite32_quiet_of_clean {s : State} (h : RegsClean s) {r : Reg32}
    (hq : (fields32 r).all Field.quiet = true) (hs : r.stores = true) (v : DWord) :
    regWrite32 r v s = emit (List.replicate (taggedCount s.cfg (fields32 r)) (.log .taggedWrite))
      (put32 r (v &&& storedMask 32 s.cfg (fields32 r)) s) := by
  rw [regWrite32_quiet r hq hs, blend32_of_clean h]

/-- A write of RVR from clean registers: the stored bits, then the effect on the limit (R153). -/
theorem regWrite32_rvr_of_clean {s : State} (h : RegsClean s) (v : DWord) :
    regWrite32 .rvr v s = runEffect .reload 0 0 (put32 .rvr (v &&& 0xFFFFFF) s) := by
  have hb := blend32_of_clean h .rvr v
  rw [storedMask_rvr, get32] at hb
  rw [regWrite32_rvr, hb]

/-- The stored CSR bits are the three fields, CLKSOURCE only when it is storage: bit by bit, and above bit 2 both sides are 0. -/
theorem csr_and_storedMask (p : Params) (c : DWord) : c &&& storedMask 32 p (fields32 .csr) =
    (BitVec.ofBool (c.getLsbD 2 && !p.tagged.contains .systClksource) ++ BitVec.ofBool (c.getLsbD 1) ++
      BitVec.ofBool (c.getLsbD 0)).setWidth 32 := by
  have hmask : storedMask 32 p (fields32 .csr) =
      (BitVec.ofBool (!p.tagged.contains .systClksource) ++ 3#2).setWidth 32 := by
    rw [storedMask_csr]
    cases p.tagged.contains .systClksource <;> decide
  rw [hmask]
  apply BitVec.eq_of_getLsbD_eq
  rintro (_ | _ | _ | i) - <;>
    simp only [BitVec.getLsbD_and, BitVec.getLsbD_setWidth, BitVec.getLsbD_append, BitVec.getLsbD_ofBool]
  all_goals simp

/-- RELOAD as a number: the low 24 bits of what is stored. -/
theorem reloadField_put32_toNat (v : DWord) (s : State) :
    (reloadField (put32 .rvr (v &&& 0xFFFFFF) s)).toNat = v.toNat % 2 ^ 24 := by
  have h : (v &&& 0xFFFFFF).setWidth 24 = v.setWidth 24 := by
    rw [BitVec.setWidth_and]
    exact BitVec.and_allOnes
  rw [reloadField, put32, h, BitVec.toNat_setWidth]

/-- The live value where R146 states it. -/
theorem liveSyst_toNat {s : State} (h : s.tS.count ≤ s.tS.limit) :
    (liveSyst s).toNat = (s.tS.limit - s.tS.count) % 2 ^ 24 := by
  rw [liveSyst, if_pos h, BitVec.toNat_ofNat]

/-- A draw moves at most the draw counter, and its value and the counter after it are those the mode gives (R155). -/
theorem drawCurrent_drawnFrom {w : Nat} (stored live : BitVec w) (s : State) :
    (drawCurrent stored live s).2 = { s with draws := (drawCurrent stored live s).2.draws } ∧
    DrawnFrom s.cfg.currentRead stored live (drawCurrent stored live s).1 s.draws
      (drawCurrent stored live s).2.draws := by
  obtain ⟨hm, e⟩ | ⟨hm, e⟩ | ⟨hm, e | e⟩ := drawCurrent_cases stored live s <;> rw [e, hm] <;>
    simp [DrawnFrom]

end Sys2Proof.Machine

namespace Sys2Proof.Claims

open Sys2Proof.Machine

/-- Settles O21: CSR's read is silent, so it shows the stored bits, which are the three fields. -/
theorem systCsrReadGivesItsFields : Obligations.SystCsrReadGivesItsFields := by
  rintro s _ rfl
  rw [exec_eq_read32 (off := 0) rfl rfl s, read32, regRead32_silent .csr rfl, csr_and_storedMask]
  rfl

/-- Settles O22: CSR's write is quiet, so from clean registers it leaves the written bits of its fields and the warnings of the
tagged ones. -/
theorem systCsrWriteStoresItsFields : Obligations.SystCsrWriteStoresItsFields := by
  intro s v h
  rw [exec_eq_write32 (off := 0) rfl rfl s, write32, regWrite32_quiet_of_clean h rfl rfl, storedMask_csr, taggedCount_csr]
  cases s.cfg.tagged.contains .systClksource <;> rfl

/-- Settles O23: the write stores the 24 bits before its effect reads them as the new limit; the read is silent. -/
theorem systReloadWriteAndRead : Obligations.SystReloadWriteAndRead := by
  refine ⟨fun s v h => ?_, fun s => ?_⟩
  · rw [exec_eq_write32 (off := 4) rfl rfl s, write32, regWrite32_rvr_of_clean h, runEffect, reloadField_put32_toNat, put32_cfg]
    cases s.cfg.reloadSetsLimit <;> rfl
  · rw [exec_eq_read32 (off := 4) rfl rfl s, read32, regRead32_silent .rvr rfl, storedMask_rvr]
    rfl

/-- Settles O24: CVR's write is quiet and none of its bits is tagged. -/
theorem systCurrentWriteStoresOnly : Obligations.SystCurrentWriteStoresOnly := by
  intro s v h
  rw [exec_eq_write32 (off := 8) rfl rfl s, write32, regWrite32_quiet_of_clean h rfl rfl, storedMask_cvr, taggedCount_cvr,
    List.replicate_zero, emit_nil]
  rfl

/-- Settles O25: the read is one draw from the stored field and the live value. -/
theorem systCurrentReadIsStoredOrLive : Obligations.SystCurrentReadIsStoredOrLive := by
  intro s
  obtain ⟨hstate, hdrawn⟩ := drawCurrent_drawnFrom (currentField s) (liveSyst s) s
  refine ⟨liveSyst s, _, _, ?_, liveSyst_toNat, hdrawn⟩
  rw [exec_eq_read32 (off := 8) rfl rfl s, read32, regRead32_cvr]
  exact congrArg (fun t => Host.Outcome.next (answer _ t)) hstate

/-- Settles O26: CALIB is one read-only field computed from the parameter. -/
theorem systCalibIsConstant : Obligations.SystCalibIsConstant := by
  refine ⟨fun s => ?_, fun s v => ?_⟩
  · rw [exec_eq_read32 (off := 12) rfl rfl s, read32, regRead32_calib]
    rfl
  · rw [exec_eq_write32 (off := 12) rfl rfl s, write32, regWrite32_calib]

end Sys2Proof.Claims
end

section
/-! The WDOG byte registers (43_watchdog.md R181 to R186): what a byte access does when no bit outside the stored ones is set, and
what it does to a register that is one field of eight bits. -/

namespace Sys2Proof.Machine

open Sys2Proof.Claims

/-- A value within a mask is unchanged by it. -/
theorem and_eq_self_of_within {w : Nat} {x k : BitVec w} (h : x &&& ~~~k = 0) : x &&& k = x := by
  calc x &&& k = (x &&& k) ||| (x &&& ~~~k) := by rw [h]; exact BitVec.or_zero.symm
    _ = x := by rw [← BitVec.and_or_distrib_left, BitVec.or_not_self, BitVec.and_allOnes]

/-- From clean registers a read without effects shows all of the stored byte (10_state.md R22). -/
theorem get8_and_storedMask_of_clean {s : State} (h : RegsClean s) (r : Reg8) :
    get8 r s &&& storedMask 8 s.cfg (fields8 r) = get8 r s :=
  and_eq_self_of_within (h.1 r)

theorem read8_silent {r : Reg8} (h : (fields8 r).all Field.silent = true) (s : State) :
    read8 r s = .next (answer (.byte (get8 r s &&& keptBits s r)) s) := by
  rw [read8, regRead8_silent r h, keptBits]

theorem read8_silent_of_clean {s : State} (h : RegsClean s) {r : Reg8} (hr : (fields8 r).all Field.silent = true) :
    read8 r s = .next (answer (.byte (get8 r s)) s) := by
  rw [read8_silent hr, keptBits, get8_and_storedMask_of_clean h]

/-- From clean registers a write without effects stores exactly the written bits that the register keeps, and records its warnings
(40_regfile.md R92). -/
theorem write8_quiet_of_clean {s : State} (h : RegsClean s) {r : Reg8} (hq : (fields8 r).all Field.quiet = true)
    (hs : r.stores = true) (hc : r ≠ .uartC2) (v : Byte) :
    write8 r v s = .next (emit (tagLogs s r) (put8 r (v &&& keptBits s r) s)) := by
  have hblend : (get8 r s &&& ~~~storedMask 8 s.cfg (fields8 r)) ||| (v &&& storedMask 8 s.cfg (fields8 r)) =
      v &&& keptBits s r := by
    rw [h.1 r]
    exact BitVec.zero_or
  rw [write8, regWrite8_quiet r hq hs hc, hblend, tagLogs]

/-- C2 is the only register with a post-write hook (40_regfile.md R107). -/
theorem postWrite_of_ne {r : Reg8} (h : r ≠ .uartC2) (s : State) : postWrite r s = s := by
  unfold postWrite
  split
  · exact absurd rfl h
  · rfl

/-! A register that is one field of eight bits without a write effect: it stores the written byte when the field holds state, and
a write is only logged when the field is tagged. -/

section OneField

variable {r : Reg8} {f : Field} (hr : fields8 r = [f]) (hc : r ≠ .uartC2)

include hr hc

theorem write8_one_of_holdsState (hl : f.lo = 0) (hw : f.width = 8) (hq : f.quiet = true) {s : State}
    (hs : f.holdsState s.cfg = true) (hstores : r.stores = true) (v : Byte) : write8 r v s = .next (put8 r v s) := by
  have hquiet : (fields8 r).all Field.quiet = true := by rw [hr, List.all_cons, hq]; rfl
  have hmode : f.mode s.cfg ≠ .tagged := fun hm => by simp [Field.holdsState, hm] at hs
  have hcount : taggedCount s.cfg (fields8 r) = 0 := by rw [hr, taggedCount, if_neg hmode]; rfl
  rw [write8, regWrite8_quiet r hquiet hstores hc, storedMask_one hr hl hw hs, blend_allOnes, hcount, List.replicate_zero,
    emit_nil]

theorem write8_one_of_tagged {s : State} (hm : f.mode s.cfg = .tagged) (v : Byte) :
    write8 r v s = .next (emit [.log .taggedWrite] s) := by
  rw [write8, regWrite8, postWrite_of_ne hc, hr, writeFields, writeFields, writeField, hm]

/-- The two cases of `P_FIELDKIND` (40_regfile.md R95). -/
theorem write8_one_inert (hl : f.lo = 0) (hw : f.width = 8) (hq : f.quiet = true) (hi : f.inert = true)
    (ha : f.access = .rw) (hstores : r.stores = true) (v : Byte) (s : State) :
    write8 r v s = .next (if s.cfg.tagged.contains f.name then emit [.log .taggedWrite] s else put8 r v s) := by
  split
  · exact write8_one_of_tagged hr hc (Field.mode_of_tagged hi (List.contains_iff_mem.mp ‹_›)) v
  · exact write8_one_of_holdsState hr hc hl hw hq
      (Field.holdsState_of_not_tagged ha fun hmem => absurd (List.contains_iff_mem.mpr hmem) ‹_›) hstores v

end OneField

/-- A register whose only field is tagged holds no state, so from clean registers its byte is 0 (10_state.md R22). -/
theorem get8_eq_zero_of_tagged {s : State} (h : RegsClean s) {r : Reg8} {f : Field} (hr : fields8 r = [f])
    (hm : f.mode s.cfg = .tagged) : get8 r s = 0 := by
  have hs : f.holdsState s.cfg = false := by rw [Field.holdsState, hm]
  have hmask : storedMask 8 s.cfg (fields8 r) = 0 := by
    rw [hr, storedMask, storedMask, hs]
    exact BitVec.or_zero
  rw [← get8_and_storedMask_of_clean h r, hmask]
  exact BitVec.and_zero

/-- A register that keeps its byte reads it. -/
theorem KeepsByte.read8 {r : Reg8} {s : State} (h : KeepsByte s.cfg r) :
    read8 r s = .next (answer (.byte (get8 r s)) s) := by
  rw [Machine.read8, h.read s rfl]

/-- A read that is one draw moves the result and at most the draw counter (43_watchdog.md R185). -/
theorem read8_drawnFrom {r : Reg8} {stored live : Byte} {s : State} (h : regRead8 r s = drawCurrent stored live s) :
    ∃ (x : Byte) (n : Nat), read8 r s = .next { s with rdata := .byte x, draws := n } ∧
      DrawnFrom s.cfg.currentRead stored live x s.draws n := by
  obtain ⟨hstate, hdrawn⟩ := drawCurrent_drawnFrom stored live s
  refine ⟨_, _, ?_, hdrawn⟩
  rw [read8, h]
  exact congrArg (fun t => Host.Outcome.next (answer _ t)) hstate

/-- The two bytes of the count truncated to 16 bits (41_timer_core.md R146). -/
theorem liveWdog_high (s : State) : (liveWdog s).extractLsb' 8 8 = BitVec.ofNat 8 (s.tW.count % 2 ^ 16 / 256) := by
  apply BitVec.eq_of_toNat_eq
  rw [liveWdog, BitVec.extractLsb'_toNat, BitVec.toNat_ofNat, BitVec.toNat_ofNat, Nat.shiftRight_eq_div_pow]

theorem liveWdog_low (s : State) : (liveWdog s).extractLsb' 0 8 = BitVec.ofNat 8 (s.tW.count % 256) := by
  apply BitVec.eq_of_toNat_eq
  rw [liveWdog, BitVec.extractLsb'_toNat, BitVec.toNat_ofNat, BitVec.toNat_ofNat, Nat.shiftRight_zero]
  omega

/-- TOVALH:TOVALL as a number (10_state.md R29). -/
theorem timeoutField_toNat (s : State) : (timeoutField s).toNat = s.wdog.tovalh.toNat * 256 + s.wdog.tovall.toNat := by
  rw [timeoutField, BitVec.toNat_append, ← Nat.shiftLeft_add_eq_or_of_lt s.wdog.tovall.isLt, Nat.shiftLeft_eq]

/-- The timeout bytes' write effect (43_watchdog.md R183). -/
theorem runEffect_timeout (s : State) : runEffect .timeout 0 0 s = { s with
    tW := if s.cfg.reloadSetsLimit then
      { s.tW with limit := s.wdog.tovalh.toNat * 256 + s.wdog.tovall.toNat } else s.tW } := by
  rw [runEffect, timeoutField_toNat]
  cases s.cfg.reloadSetsLimit <;> rfl

end Sys2Proof.Machine

namespace Sys2Proof.Claims

open Sys2Proof.Machine

/-- Settles O27: the read of CS1 and CS2 is silent and their write is quiet, the enable effect included. -/
theorem wdogControlReadAndWrite : Obligations.WdogControlReadAndWrite := by
  refine ⟨fun s => ?_, fun s => ?_, fun s v h => ?_, fun s v h => ?_⟩
  · exact (exec_eq_read8 (dev := .wdog) (off := 0) rfl rfl s).trans (read8_silent rfl s)
  · exact (exec_eq_read8 (dev := .wdog) (off := 1) rfl rfl s).trans (read8_silent rfl s)
  · exact (exec_eq_write8 (dev := .wdog) (off := 0) rfl rfl s).trans (write8_quiet_of_clean h rfl rfl (by decide) v)
  · exact (exec_eq_write8 (dev := .wdog) (off := 1) rfl rfl s).trans (write8_quiet_of_clean h rfl rfl (by decide) v)

/-- Settles O28: each counter byte is one field that is never tagged and has no write effect. -/
theorem wdogCounterWriteStoresOnly : Obligations.WdogCounterWriteStoresOnly := by
  refine ⟨fun s v => ?_, fun s v => ?_⟩
  · exact (exec_eq_write8 (dev := .wdog) (off := 2) rfl rfl s).trans
      (write8_one_of_holdsState (r := .wdogCnth) rfl (by decide) rfl rfl rfl rfl rfl v)
  · exact (exec_eq_write8 (dev := .wdog) (off := 3) rfl rfl s).trans
      (write8_one_of_holdsState (r := .wdogCntl) rfl (by decide) rfl rfl rfl rfl rfl v)

/-- Settles O29: each read is one draw from the stored byte and the count's byte. -/
theorem wdogCounterReadIsStoredOrLive : Obligations.WdogCounterReadIsStoredOrLive := by
  refine ⟨fun s => ?_, fun s => ?_⟩
  · rw [exec_eq_read8 (dev := .wdog) (off := 2) rfl rfl s, ← liveWdog_high]
    exact read8_drawnFrom (regRead8_cnth s)
  · rw [exec_eq_read8 (dev := .wdog) (off := 3) rfl rfl s, ← liveWdog_low]
    exact read8_drawnFrom (regRead8_cntl s)

/-- Settles O30: the write's effect runs after the store, so the limit it sets is composed of the new byte and the other one. -/
theorem wdogTimeoutWriteAndRead : Obligations.WdogTimeoutWriteAndRead := by
  refine ⟨fun s v => ?_, fun s v => ?_, fun s => ?_, fun s => ?_⟩
  · rw [exec_eq_write8 (dev := .wdog) (off := 4) rfl rfl s, write8, regWrite8_tovalh, runEffect_timeout]
    rfl
  · rw [exec_eq_write8 (dev := .wdog) (off := 5) rfl rfl s, write8, regWrite8_tovall, runEffect_timeout]
    rfl
  · exact (exec_eq_read8 (dev := .wdog) (off := 4) rfl rfl s).trans
      (keepsByte_of_silent rfl (storedMask_tovalh s.cfg)).read8
  · exact (exec_eq_read8 (dev := .wdog) (off := 5) rfl rfl s).trans
      (keepsByte_of_silent rfl (storedMask_tovall s.cfg)).read8

/-- Settles O31: each window byte is one inert field, so `P_FIELDKIND` decides between storage and a log record. -/
theorem wdogWindowIsStorage : Obligations.WdogWindowIsStorage := by
  refine ⟨fun s h => ⟨?_, ?_⟩, fun s v _ => ?_, fun s v _ => ?_, fun s h => ⟨fun ht => ?_, fun ht => ?_⟩⟩
  · exact (exec_eq_read8 (dev := .wdog) (off := 6) rfl rfl s).trans (read8_silent_of_clean h rfl)
  · exact (exec_eq_read8 (dev := .wdog) (off := 7) rfl rfl s).trans (read8_silent_of_clean h rfl)
  · exact (exec_eq_write8 (dev := .wdog) (off := 6) rfl rfl s).trans
      (write8_one_inert (r := .wdogWinh) rfl (by decide) rfl rfl rfl rfl rfl rfl v s)
  · exact (exec_eq_write8 (dev := .wdog) (off := 7) rfl rfl s).trans
      (write8_one_inert (r := .wdogWinl) rfl (by decide) rfl rfl rfl rfl rfl rfl v s)
  · exact get8_eq_zero_of_tagged h (r := .wdogWinh) rfl (Field.mode_of_tagged rfl (List.contains_iff_mem.mp ht))
  · exact get8_eq_zero_of_tagged h (r := .wdogWinl) rfl (Field.mode_of_tagged rfl (List.contains_iff_mem.mp ht))

end Sys2Proof.Claims
end

section
/-! The transmit queue's bound (44_uart.md R231): a flush leaves fewer bytes than the watermark, whatever was queued before it. -/

namespace Sys2Proof.Machine

/-- TxqBounded reads the parameters and the queue only. -/
theorem TxqBounded.congr {s t : State} (h : TxqBounded s) (hc : t.cfg = s.cfg) (hq : t.txq = s.txq) : TxqBounded t := by
  unfold TxqBounded
  rw [hc, hq]
  exact h

theorem txqBounded_of_empty {s : State} (h : s.txq = []) : TxqBounded s := by
  unfold TxqBounded
  rw [h]
  exact Nat.zero_le _

/-- Below the watermark the queue waits (R237). -/
theorem flush_of_below {s : State} (h : s.txq.length < s.cfg.txwm) : flush s = s := by
  rw [flush, if_neg (Nat.not_le.mpr h)]

/-- From the watermark on the whole queue goes out, head first (R237). -/
theorem flush_of_watermark {s : State} (h : s.cfg.txwm ≤ s.txq.length) :
    flush s = { emit (s.txq.map .txByte) s with txq := [] } := by
  rw [flush, if_pos h]

theorem txqBounded_flush (s : State) : TxqBounded (flush s) := by
  by_cases h : s.cfg.txwm ≤ s.txq.length
  · rw [flush_of_watermark h]
    exact txqBounded_of_empty rfl
  · rw [flush_of_below (Nat.not_le.mp h)]
    unfold TxqBounded
    omega

theorem TxqBounded.tick {t : TimerId} {s : State} (h : TxqBounded s) : TxqBounded (tick t s) := by
  obtain ⟨-, e⟩ | ⟨-, -, e⟩ | ⟨-, -, -, e⟩ | ⟨-, -, -, e⟩ := tick_cases t s <;> rw [e]
  · exact h
  · exact h.congr rfl rfl
  · exact h.congr (setTimer_cfg t _ _) (setTimer_txq t _ _)
  · exact h.congr (setTimer_cfg t _ _) (setTimer_txq t _ _)

theorem txqBounded_closed : Closed TxqBounded where
  log _ _ h := h.congr rfl rfl
  answer _ _ h := h.congr rfl rfl
  draws _ _ h := h.congr rfl rfl
  recompute _ h := by
    rw [recompute_eq]
    exact h.congr rfl rfl
  store8 r _ _ s _ _ h := h.congr (put8_cfg r _ s) (put8_txq r _ s)
  store32 r _ _ s _ _ h := h.congr (put32_cfg r _ s) (put32_txq r _ s)
  limit t _ s _ h := h.congr (setTimer_cfg t _ s) (setTimer_txq t _ s)
  enqueue _ _ _ := txqBounded_flush _
  pop _ _ _ _ h := h.congr rfl rfl
  push _ _ h := h.congr rfl rfl
  tick _ _ h := h.tick
  resetSyst _ h := by
    rw [resetSyst_eq]
    exact h.congr rfl rfl
  resetWdog _ h := by
    rw [resetWdog_eq]
    exact h.congr rfl rfl
  resetUartRegs _ _ := txqBounded_of_empty (resetRegs8_txq _ _)
  resetIcs _ h := by
    rw [resetIcs_eq]
    exact h.congr rfl rfl
  clearRx _ h := h.congr rfl rfl
  resetDone _ h := h.congr rfl rfl

/-- Within the bound the queue is no longer than the watermark (R223). -/
theorem TxqBounded.tdre {s : State} (h : TxqBounded s) : tdre s = true := by
  unfold TxqBounded at h
  rw [Machine.tdre, decide_eq_true_eq]
  omega

/-- A watermark of at most 1 leaves no room in the queue. -/
theorem TxqBounded.txq_eq_nil {s : State} (h : TxqBounded s) (hw : s.cfg.txwm ≤ 1) : s.txq = [] := by
  unfold TxqBounded at h
  apply List.eq_nil_of_length_eq_zero
  omega

theorem tc_eq_decide (s : State) : tc s = decide (s.txq = []) := by
  rw [tc]
  cases s.txq <;> rfl

end Sys2Proof.Machine

namespace Sys2Proof.Claims

open Sys2Proof.Machine

/-- Settles O11: construction leaves the queue empty, bytes enter it only before a flush, and a flush bounds it. -/
theorem stepKeepsTransmitQueueBounded : Obligations.StepKeepsTransmitQueueBounded := by
  refine ⟨fun _ => txqBounded_of_empty rfl, fun s t => ?_, fun s h => ⟨h.tdre, fun hw => ?_⟩⟩
  · exact txqBounded_closed.step fun _ _ h => h.congr rfl rfl
  · have hq := h.txq_eq_nil hw
    exact ⟨hq, by rw [tc_eq_decide, hq, decide_eq_true rfl]⟩

end Sys2Proof.Claims
end

section
/-! The UART line and the levels the history records (44_uart.md R226, 60_exceptions.md R310): only a recomputation records a level,
and it records the one it sets. -/

namespace Sys2Proof.Claims

open Sys2Proof.Machine

theorem lineAfter_append (b : Bool) (es fs : List Event) : lineAfter b (es ++ fs) = lineAfter (lineAfter b es) fs :=
  List.foldl_append

/-- Events of other kinds leave the level as it was. -/
theorem lineAfter_of_no_level {b : Bool} {es : List Event} (h : ∀ v, Event.irqLevel v ∉ es) : lineAfter b es = b := by
  induction es with
  | nil => rfl
  | cons e es ih =>
    have hes : lineAfter b es = b := ih fun v hv => h v (List.mem_cons_of_mem e hv)
    cases e with
    | irqLevel v => exact absurd List.mem_cons_self (h v)
    | _ => exact hes

theorem lineAfter_lineEvents (old new : Bool) : lineAfter old (lineEvents old new) = new := by
  unfold lineEvents
  split
  · exact Eq.symm ‹_›
  · rfl

/-- `Recompute()` in the claims' words (R226). -/
theorem recompute_eq_lineEvents (s : State) : recompute s = { s with
    uartIrq := lineFormula s.uart.c2 s.rxbuf.length s.cfg.rxwm
    hist := s.hist ++ lineEvents s.uartIrq (lineFormula s.uart.c2 s.rxbuf.length s.cfg.rxwm) } :=
  recompute_eq s

/-- LineMatchesHistory reads the history and the line only. -/
theorem LineMatchesHistory.congr {s t : State} (h : LineMatchesHistory s) (hh : t.hist = s.hist)
    (hl : t.uartIrq = s.uartIrq) : LineMatchesHistory t := by
  unfold LineMatchesHistory
  rw [hh, hl]
  exact h

/-- Appending events among which there is no level. -/
theorem LineMatchesHistory.append {s t : State} (h : LineMatchesHistory s) {es : List Event}
    (hes : ∀ v, Event.irqLevel v ∉ es) (hh : t.hist = s.hist ++ es) (hl : t.uartIrq = s.uartIrq) :
    LineMatchesHistory t := by
  unfold LineMatchesHistory at h ⊢
  rw [hh, hl, lineAfter_append, h, lineAfter_of_no_level hes]

theorem LineMatchesHistory.recompute {s : State} (h : LineMatchesHistory s) : LineMatchesHistory (recompute s) := by
  unfold LineMatchesHistory at h ⊢
  rw [recompute_eq_lineEvents, lineAfter_append, h, lineAfter_lineEvents]

/-- What a flush records are sent bytes. -/
theorem LineMatchesHistory.flush {s : State} (h : LineMatchesHistory s) : LineMatchesHistory (flush s) := by
  by_cases hw : s.cfg.txwm ≤ s.txq.length
  · rw [flush_of_watermark hw]
    exact h.append (by simp) rfl rfl
  · rw [flush_of_below (Nat.not_le.mp hw)]
    exact h

/-- What a tick records is at most an expiry's pulse and reset request (41_timer_core.md R135). -/
theorem LineMatchesHistory.tick {t : TimerId} {s : State} (h : LineMatchesHistory s) : LineMatchesHistory (tick t s) := by
  obtain ⟨-, e⟩ | ⟨-, -, e⟩ | ⟨-, -, -, e⟩ | ⟨-, -, -, e⟩ := tick_cases t s <;> rw [e]
  · exact h
  · exact h.congr rfl rfl
  · exact h.congr (setTimer_hist t _ _) (setTimer_uartIrq t _ _)
  · refine h.append (fun v => ?_) (setTimer_hist t _ _) (setTimer_uartIrq t _ _)
    cases irqEnabled t s <;> simp

theorem lineMatchesHistory_closed : Closed LineMatchesHistory where
  log _ _ h := h.append (by simp) rfl rfl
  answer _ _ h := h.congr rfl rfl
  draws _ _ h := h.congr rfl rfl
  recompute _ h := h.recompute
  store8 r _ _ s _ _ h := h.congr (put8_hist r _ s) (put8_uartIrq r _ s)
  store32 r _ _ s _ _ h := h.congr (put32_hist r _ s) (put32_uartIrq r _ s)
  limit t _ s _ h := h.congr (setTimer_hist t _ s) (setTimer_uartIrq t _ s)
  enqueue _ _ h := LineMatchesHistory.flush (h.congr rfl rfl)
  pop _ _ _ _ h := h.congr rfl rfl
  push _ _ h := h.congr rfl rfl
  tick _ _ h := h.tick
  resetSyst _ h := by
    rw [resetSyst_eq]
    exact h.congr rfl rfl
  resetWdog _ h := by
    rw [resetWdog_eq]
    exact h.congr rfl rfl
  resetUartRegs _ h := h.congr (resetRegs8_hist _ _) (resetRegs8_uartIrq _ _)
  resetIcs _ h := by
    rw [resetIcs_eq]
    exact h.congr rfl rfl
  clearRx _ h := h.congr rfl rfl
  resetDone _ h := h.congr rfl rfl

/-- Settles O13: a recomputation records the level it sets, and no other elementary update moves the line or records a level. -/
theorem stepKeepsLineMatchingHistory : Obligations.StepKeepsLineMatchingHistory := fun _ _ =>
  lineMatchesHistory_closed.step fun _ _ h => h.congr rfl rfl

end Sys2Proof.Claims
end

section
/-! The UART registers (44_uart.md R230 to R239): storage, C2 with its hook, S1, and the data register, one equation per branch of
its write and its read. -/

namespace Sys2Proof.Machine

open Sys2Proof.Claims

/-- The byte read of a register whose read is silent, and the byte write of one whose write is quiet, by the transaction's name. -/
theorem exec_byteRead_silent {dev : Device} {off : Nat} {i : Instr} {r : Reg8} (hi : byteRead dev off = some i)
    (hr : byteReg dev off = some r) (h : (fields8 r).all Field.silent = true) (s : State) :
    exec i s = .next (answer (.byte (get8 r s &&& keptBits s r)) s) :=
  (exec_eq_read8 hi hr s).trans (read8_silent h s)

theorem exec_byteWrite_quiet {dev : Device} {off : Nat} {v : Byte} {i : Instr} {r : Reg8}
    (hi : byteWrite dev off v = some i) (hr : byteReg dev off = some r) (hq : (fields8 r).all Field.quiet = true)
    (hs : r.stores = true) (hc : r ≠ .uartC2) {s : State} (h : RegsClean s) :
    exec i s = .next (emit (tagLogs s r) (put8 r (v &&& keptBits s r) s)) :=
  (exec_eq_write8 hi hr s).trans (write8_quiet_of_clean h hq hs hc v)

/-- From clean registers a write leaves exactly the written bits of the fields that hold state. -/
theorem blend8_of_clean {s : State} (h : RegsClean s) (r : Reg8) (v : Byte) :
    (get8 r s &&& ~~~storedMask 8 s.cfg (fields8 r)) ||| (v &&& storedMask 8 s.cfg (fields8 r)) = v &&& keptBits s r := by
  rw [h.1 r]
  exact BitVec.zero_or

/-- A bit of a field that holds state is stored as written. -/
theorem getLsbD_and_keptBits {s : State} {r : Reg8} {f : Field} (hf : f ∈ fields8 r) (hs : f.holdsState s.cfg = true)
    {i : Nat} (hi : (fieldMask 8 f).getLsbD i = true) (v : Byte) : (v &&& keptBits s r).getLsbD i = v.getLsbD i := by
  rw [BitVec.getLsbD_and, keptBits, getLsbD_storedMask hf hs hi, Bool.and_true]

/-- The four enables are never tagged, so the formula over the stored bits is the formula over the written ones (R232). -/
theorem lineFormula_and_keptBits (s : State) (v : Byte) (n k : Nat) :
    lineFormula (v &&& keptBits s .uartC2) n k = lineFormula v n k := by
  rw [lineFormula,
    getLsbD_and_keptBits (f := plainField .c2Te 3 1) (i := 3) (by decide) rfl (by decide),
    getLsbD_and_keptBits (f := plainField .c2Tie 7 1) (i := 7) (by decide) rfl (by decide),
    getLsbD_and_keptBits (f := plainField .c2Re 2 1) (i := 2) (by decide) rfl (by decide),
    getLsbD_and_keptBits (f := plainField .c2Rie 5 1) (i := 5) (by decide) rfl (by decide), lineFormula]

/-- The two branches of WriteData (R236). -/
theorem writeData_of_disabled {s : State} (h : txEnabled s = false) (b : Byte) :
    writeData b s = emit [.log .txDisabled] s := by
  obtain ⟨-, e⟩ | ⟨hn, -⟩ := writeData_cases b s
  · exact e
  · exact absurd (hn.symm.trans h) (by decide)

theorem writeData_of_enabled {s : State} (h : txEnabled s = true) (b : Byte) :
    writeData b s = recompute (flush { s with txq := s.txq ++ [b] }) := by
  obtain ⟨hn, -⟩ | ⟨-, e⟩ := writeData_cases b s
  · exact absurd (h.symm.trans hn) (by decide)
  · exact e

theorem exec_wr8UartD (v : Byte) (s : State) : exec (.wr8UartD v) s = .next (writeData v (put8 .uartD v s)) := by
  rw [exec_eq_write8 (dev := .uart) (off := 7) rfl rfl s, write8, regWrite8_uartD]

theorem exec_rd8UartD (s : State) : exec .rd8UartD s = .next (answer (.byte (readData s).1) (readData s).2) := by
  rw [exec_eq_read8 (dev := .uart) (off := 7) rfl rfl s, read8, regRead8_uartD]

/-- A D write with TE = 0 (R236). -/
theorem exec_wr8UartD_of_disabled {s : State} (h : s.uart.c2.getLsbD 3 = false) (v : Byte) :
    exec (.wr8UartD v) s = .next { s with
      uart := { s.uart with d := v }, hist := s.hist ++ [.log .txDisabled] } := by
  rw [exec_wr8UartD, writeData_of_disabled (s := put8 .uartD v s) h]
  rfl

/-- A D write with TE = 1 that leaves the queue below the watermark: the byte waits (R236, R237). -/
theorem exec_wr8UartD_of_below {s : State} (h : s.uart.c2.getLsbD 3 = true) (hw : s.txq.length + 1 < s.cfg.txwm)
    (v : Byte) : exec (.wr8UartD v) s = .next { s with
      uart := { s.uart with d := v }
      txq := s.txq ++ [v]
      uartIrq := lineFormula s.uart.c2 s.rxbuf.length s.cfg.rxwm
      hist := s.hist ++ lineEvents s.uartIrq (lineFormula s.uart.c2 s.rxbuf.length s.cfg.rxwm) } := by
  rw [exec_wr8UartD, writeData_of_enabled (s := put8 .uartD v s) h, flush_of_below (by simpa using hw),
    recompute_eq_lineEvents]
  rfl

/-- A D write with TE = 1 that brings the queue to the watermark: all of it goes out, the new byte last (R236, R237). -/
theorem exec_wr8UartD_of_watermark {s : State} (h : s.uart.c2.getLsbD 3 = true) (hw : s.cfg.txwm ≤ s.txq.length + 1)
    (v : Byte) : exec (.wr8UartD v) s = .next { s with
      uart := { s.uart with d := v }
      txq := []
      uartIrq := lineFormula s.uart.c2 s.rxbuf.length s.cfg.rxwm
      hist := s.hist ++ (s.txq ++ [v]).map .txByte ++
        lineEvents s.uartIrq (lineFormula s.uart.c2 s.rxbuf.length s.cfg.rxwm) } := by
  rw [exec_wr8UartD, writeData_of_enabled (s := put8 .uartD v s) h, flush_of_watermark (by simpa using hw),
    recompute_eq_lineEvents]
  rfl

/-- The three branches of ReadData (R239). -/
theorem readData_of_disabled {s : State} (h : rxEnabled s = false) :
    readData s = (0, emit [.log .rxDisabled] s) := by
  simp [readData, h]

theorem readData_of_empty {s : State} (h : rxEnabled s = true) (hb : s.rxbuf = []) :
    readData s = (0, recompute (emit [.log .rxEmpty] s)) := by
  simp [readData, h, hb]

theorem readData_of_cons {s : State} (h : rxEnabled s = true) {b : Byte} {rest : List Byte}
    (hb : s.rxbuf = b :: rest) : readData s = (b, recompute { s with rxbuf := rest }) := by
  simp [readData, h, hb]

end Sys2Proof.Machine

namespace Sys2Proof.Claims

open Sys2Proof.Machine

/-- Settles O35: the five reads are silent and the five writes are quiet. -/
theorem uartStorageReadAndWrite : Obligations.UartStorageReadAndWrite := by
  refine ⟨fun s => ⟨?_, ?_, ?_, ?_, ?_⟩, fun s v h => ⟨?_, ?_, ?_, ?_, ?_⟩⟩
  · exact exec_byteRead_silent (dev := .uart) (off := 0) rfl rfl rfl s
  · exact exec_byteRead_silent (dev := .uart) (off := 1) rfl rfl rfl s
  · exact exec_byteRead_silent (dev := .uart) (off := 2) rfl rfl rfl s
  · exact exec_byteRead_silent (dev := .uart) (off := 5) rfl rfl rfl s
  · exact exec_byteRead_silent (dev := .uart) (off := 6) rfl rfl rfl s
  · exact exec_byteWrite_quiet (dev := .uart) (off := 0) rfl rfl rfl rfl (by decide) h
  · exact exec_byteWrite_quiet (dev := .uart) (off := 1) rfl rfl rfl rfl (by decide) h
  · exact exec_byteWrite_quiet (dev := .uart) (off := 2) rfl rfl rfl rfl (by decide) h
  · exact exec_byteWrite_quiet (dev := .uart) (off := 5) rfl rfl rfl rfl (by decide) h
  · exact exec_byteWrite_quiet (dev := .uart) (off := 6) rfl rfl rfl rfl (by decide) h

/-- Settles O36: the hook recomputes over the bits just stored, which hold the four enables as written. -/
theorem uartControl2ReadAndWrite : Obligations.UartControl2ReadAndWrite := by
  refine ⟨exec_byteRead_silent (dev := .uart) (off := 3) rfl rfl rfl, fun s v h => ?_⟩
  rw [exec_eq_write8 (dev := .uart) (off := 3) rfl rfl s, write8, regWrite8_uartC2, blend8_of_clean h,
    recompute_eq_lineEvents, ← lineFormula_and_keptBits s v]
  rfl

/-- Settles O37: S1 is eight read-only fields, three of them computed from the state. -/
theorem uartStatus1ReadAndWrite : Obligations.UartStatus1ReadAndWrite := by
  refine ⟨?_, fun s v => ?_⟩
  · rintro s _ rfl
    rw [exec_eq_read8 (dev := .uart) (off := 4) rfl rfl s, read8, regRead8_uartS1, tc_eq_decide]
    rfl
  · rw [exec_eq_write8 (dev := .uart) (off := 4) rfl rfl s, write8, regWrite8_uartS1]

/-- Settles O38: the disabled branch of WriteData, and its enabled branch on each side of the watermark. -/
theorem uartDataWrite : Obligations.UartDataWrite := fun _ v =>
  ⟨fun h => exec_wr8UartD_of_disabled h v, fun h hw => exec_wr8UartD_of_below h hw v,
    fun h hw => exec_wr8UartD_of_watermark h hw v⟩

/-- Settles O39: the three branches of ReadData. -/
theorem uartDataRead : Obligations.UartDataRead := by
  refine fun s => ⟨fun h => ?_, fun h hb => ?_, fun b rest h hb => ?_⟩
  · rw [exec_rd8UartD, readData_of_disabled h]
    rfl
  · rw [exec_rd8UartD, readData_of_empty h hb, recompute_eq_lineEvents, emit_rxbuf, hb]
    rfl
  · rw [exec_rd8UartD, readData_of_cons h hb, recompute_eq_lineEvents]
    rfl

end Sys2Proof.Claims
end

section
/-! The recomputation points (44_uart.md R227, R229): each ends in a recomputation, after which only the read result is set. -/

namespace Sys2Proof.Machine

open Sys2Proof.Claims

/-- The line is the formula's value over the state (R229). -/
def LineFollowsFormula (s : State) : Prop :=
  s.uartIrq = lineFormula s.uart.c2 s.rxbuf.length s.cfg.rxwm

theorem lineFollowsFormula_recompute (s : State) : LineFollowsFormula (recompute s) := by
  rw [recompute_eq_lineEvents]
  rfl

theorem lineFollowsFormula_writeData {s : State} (h : s.uart.c2.getLsbD 3 = true) (b : Byte) :
    LineFollowsFormula (writeData b s) := by
  rw [writeData_of_enabled h]
  exact lineFollowsFormula_recompute _

theorem lineFollowsFormula_readData {s : State} (h : s.uart.c2.getLsbD 2 = true) :
    LineFollowsFormula (readData s).2 := by
  cases hb : s.rxbuf with
  | nil =>
    rw [readData_of_empty h hb]
    exact lineFollowsFormula_recompute _
  | cons b rest =>
    rw [readData_of_cons h hb]
    exact lineFollowsFormula_recompute _

end Sys2Proof.Machine

namespace Sys2Proof.Claims

open Sys2Proof.Machine

/-- Settles O40, one recomputation point after the other. -/
theorem lineFollowsFormulaAtRecomputation : Obligations.LineFollowsFormulaAtRecomputation := by
  rintro s t (⟨v, e⟩ | ⟨h, v, e⟩ | ⟨h, e⟩ | e | e | ⟨h, b, e⟩)
  · cases e
    exact lineFollowsFormula_recompute _
  · rw [exec_wr8UartD] at e
    cases e
    exact lineFollowsFormula_writeData (s := put8 .uartD v s) h v
  · rw [exec_rd8UartD] at e
    cases e
    exact lineFollowsFormula_readData h
  · cases e
    exact lineFollowsFormula_recompute _
  · cases e
    rw [machineReset_eq]
    exact lineFollowsFormula_recompute _
  · cases e
    rw [rxPush, if_pos h]
    exact lineFollowsFormula_recompute _

end Sys2Proof.Claims
end

section
/-! Runs of D writes (44_uart.md R238): bytes go out in blocks of the watermark, or one by one. -/

namespace Sys2Proof.Machine

open Sys2Proof.Claims

theorem sentBytes_append (es fs : List Event) : sentBytes (es ++ fs) = sentBytes es ++ sentBytes fs :=
  List.filterMap_append

theorem sentBytes_map_txByte (bs : List Byte) : sentBytes (bs.map .txByte) = bs := by
  rw [sentBytes, List.filterMap_map]
  exact List.filterMap_some

theorem sentBytes_lineEvents (old new : Bool) : sentBytes (lineEvents old new) = [] := by
  unfold lineEvents
  split <;> rfl

/-- How many of `n` bytes a watermark of `w` lets go: whole blocks of `w`, and single bytes when `w` is 0 or 1. -/
def sentCount (w n : Nat) : Nat :=
  n - n % max w 1

theorem sentCount_eq (w n : Nat) : sentCount w n = if w ≤ 1 then n else n - n % w := by
  unfold sentCount
  split
  · rw [max_eq_right ‹_›, Nat.mod_one, Nat.sub_zero]
  · rw [max_eq_left (by omega)]

theorem sentCount_of_lt {w n : Nat} (h : n < max w 1) : sentCount w n = 0 := by
  rw [sentCount, Nat.mod_eq_of_lt h, Nat.sub_self]

theorem sentCount_of_block {w n : Nat} (h : n = max w 1) : sentCount w n = n := by
  rw [sentCount, h, Nat.mod_self, Nat.sub_zero]

theorem sentCount_le (w n : Nat) : sentCount w n ≤ n :=
  Nat.sub_le _ _

/-- Blocks that went out do not change how the bytes after them are split into blocks. -/
theorem sentCount_add (w m n : Nat) : sentCount w (sentCount w m + n) = sentCount w m + sentCount w n := by
  have hmod : (sentCount w m + n) % max w 1 = n % max w 1 := by
    rw [sentCount, Nat.add_mod, Nat.mod_eq_zero_of_dvd (Nat.dvd_sub_mod m), Nat.zero_add, Nat.mod_mod]
  rw [sentCount, hmod, Nat.add_sub_assoc (Nat.mod_le _ _)]
  rfl

/-- Of a list of bytes, the whole blocks that go out and the bytes that stay queued. -/
def sentPart (w : Nat) (bs : List Byte) : List Byte :=
  bs.take (sentCount w bs.length)

def keptPart (w : Nat) (bs : List Byte) : List Byte :=
  bs.drop (sentCount w bs.length)

theorem length_sentPart (w : Nat) (bs : List Byte) : (sentPart w bs).length = sentCount w bs.length :=
  List.length_take_of_le (sentCount_le w _)

/-- After the first bytes' whole blocks, what is left of them is queued before the next bytes. -/
theorem append_eq_sentPart_append (w : Nat) (xs ys : List Byte) :
    xs ++ ys = sentPart w xs ++ (keptPart w xs ++ ys) := by
  rw [← List.append_assoc, sentPart, keptPart, List.take_append_drop]

theorem sentCount_append (w : Nat) (xs ys : List Byte) :
    sentCount w (xs ++ ys).length = (sentPart w xs).length + sentCount w (keptPart w xs ++ ys).length := by
  rw [append_eq_sentPart_append w, List.length_append, length_sentPart, sentCount_add]

theorem sentPart_append (w : Nat) (xs ys : List Byte) :
    sentPart w (xs ++ ys) = sentPart w xs ++ sentPart w (keptPart w xs ++ ys) := by
  rw [sentPart, sentCount_append, append_eq_sentPart_append w xs, List.take_length_add_append]
  rfl

theorem keptPart_append (w : Nat) (xs ys : List Byte) : keptPart w (xs ++ ys) = keptPart w (keptPart w xs ++ ys) := by
  rw [keptPart, sentCount_append, append_eq_sentPart_append w xs, List.drop_length_add_append]
  rfl

theorem sentPart_of_lt {w : Nat} {bs : List Byte} (h : bs.length < max w 1) : sentPart w bs = [] := by
  rw [sentPart, sentCount_of_lt h, List.take_zero]

theorem keptPart_of_lt {w : Nat} {bs : List Byte} (h : bs.length < max w 1) : keptPart w bs = bs := by
  rw [keptPart, sentCount_of_lt h, List.drop_zero]

theorem sentPart_of_block {w : Nat} {bs : List Byte} (h : bs.length = max w 1) : sentPart w bs = bs := by
  rw [sentPart, sentCount_of_block h, List.take_length]

theorem keptPart_of_block {w : Nat} {bs : List Byte} (h : bs.length = max w 1) : keptPart w bs = [] := by
  rw [keptPart, sentCount_of_block h, List.drop_length]

theorem txqBounded_iff (s : State) : TxqBounded s ↔ s.txq.length < max s.cfg.txwm 1 := by
  unfold TxqBounded
  omega

/-- A D write with TE = 1 sends the whole blocks of the queue with the byte and keeps the rest queued. -/
theorem exec_wr8UartD_of_enabled {s : State} (h : s.uart.c2.getLsbD 3 = true) (hq : TxqBounded s) (b : Byte) :
    ∃ u es, exec (.wr8UartD b) s = .next u ∧ u.uart.c2 = s.uart.c2 ∧ u.hist = s.hist ++ es ∧
      sentBytes es = sentPart s.cfg.txwm (s.txq ++ [b]) ∧ u.txq = keptPart s.cfg.txwm (s.txq ++ [b]) := by
  rw [txqBounded_iff] at hq
  have hlen : (s.txq ++ [b]).length = s.txq.length + 1 := List.length_append
  by_cases hw : s.txq.length + 1 < s.cfg.txwm
  · have hlt : (s.txq ++ [b]).length < max s.cfg.txwm 1 := by omega
    refine ⟨_, _, exec_wr8UartD_of_below h hw b, rfl, rfl, ?_, (keptPart_of_lt hlt).symm⟩
    rw [sentBytes_lineEvents, sentPart_of_lt hlt]
  · have hblock : (s.txq ++ [b]).length = max s.cfg.txwm 1 := by omega
    refine ⟨_, _, exec_wr8UartD_of_watermark h (by omega) b, rfl, List.append_assoc _ _ _, ?_,
      (keptPart_of_block hblock).symm⟩
    rw [sentBytes_append, sentBytes_map_txByte, sentBytes_lineEvents, List.append_nil, sentPart_of_block hblock]

/-- The same of any number of D writes. -/
theorem runAll_wr8UartD_of_enabled (bs : List Byte) {s : State} (h : s.uart.c2.getLsbD 3 = true) (hq : TxqBounded s) :
    ∃ t es, runAll (bs.map .wr8UartD) s = .next t ∧ t.hist = s.hist ++ es ∧
      sentBytes es = sentPart s.cfg.txwm (s.txq ++ bs) ∧ t.txq = keptPart s.cfg.txwm (s.txq ++ bs) := by
  induction bs generalizing s with
  | nil =>
    have hlt := (txqBounded_iff s).mp hq
    refine ⟨s, [], rfl, (List.append_nil _).symm, ?_, ?_⟩ <;> rw [List.append_nil]
    · exact (sentPart_of_lt hlt).symm
    · exact (keptPart_of_lt hlt).symm
  | cons b bs ih =>
    obtain ⟨u, es, hu, hc2, hhist, hsent, hkept⟩ := exec_wr8UartD_of_enabled h hq b
    obtain ⟨t, fs, ht, hhist', hsent', hkept'⟩ := ih (hc2 ▸ h) (txqBounded_closed.exec hq hu)
    have hcfg : u.cfg = s.cfg := (cfg_eq_closed s.cfg).exec rfl hu
    rw [hcfg, hkept] at hsent' hkept'
    refine ⟨t, es ++ fs, (runAll_cons hu _).trans ht, ?_, ?_, ?_⟩
    · rw [hhist', hhist, List.append_assoc]
    · rw [sentBytes_append, hsent, hsent', ← sentPart_append, ← List.append_cons]
    · rw [hkept', ← keptPart_append, ← List.append_cons]

/-- D writes with TE = 0 are only logged (R236). -/
theorem runAll_wr8UartD_of_disabled (bs : List Byte) {s : State} (h : s.uart.c2.getLsbD 3 = false) :
    ∃ t, runAll (bs.map .wr8UartD) s = .next t ∧ t.txq = s.txq ∧
      t.hist = s.hist ++ List.replicate bs.length (.log .txDisabled) := by
  induction bs generalizing s with
  | nil => exact ⟨s, rfl, rfl, (List.append_nil _).symm⟩
  | cons b bs ih =>
    have hstep := exec_wr8UartD_of_disabled h b
    obtain ⟨t, ht, hq, hhist⟩ := ih (s := { s with
      uart := { s.uart with d := b }, hist := s.hist ++ [.log .txDisabled] }) h
    exact ⟨t, (runAll_cons hstep _).trans ht, hq, hhist.trans (List.append_assoc _ _ _)⟩

end Sys2Proof.Machine

namespace Sys2Proof.Claims

open Sys2Proof.Machine

/-- Settles O41: from an empty queue the bytes split into blocks are the written ones. -/
theorem uartSendsWrittenBytesInOrder : Obligations.UartSendsWrittenBytesInOrder := by
  refine ⟨fun s bs h hq => ?_, fun _ bs => runAll_wr8UartD_of_disabled bs⟩
  obtain ⟨t, es, hrun, hhist, hsent, hkept⟩ := runAll_wr8UartD_of_enabled bs h (txqBounded_of_empty hq)
  rw [hq, List.nil_append] at hsent hkept
  exact ⟨t, es, hrun, hhist, _, (sentCount_eq _ _).symm ▸ rfl, hsent, hkept⟩

end Sys2Proof.Claims
end

section
/-! The ICS registers (45_ics.md R271 to R284): four bytes of storage, the constant status byte, and the mode as a function of the
bits last written to C1 and C2. -/

namespace Sys2Proof.Machine

/-- A write stores the bits of the fields that hold state as written, whatever the state (40_regfile.md R92). -/
theorem getLsbD_get8_regWrite8 {r : Reg8} {f : Field} (h : (fields8 r).all Field.silent = true) (hf : f ∈ fields8 r)
    {s : State} (hs : f.holdsState s.cfg = true) {i : Nat} (hi : (fieldMask 8 f).getLsbD i = true) (v : Byte) :
    (get8 r (regWrite8 r v s)).getLsbD i = v.getLsbD i := by
  rw [get8_regWrite8_of_silent h, getLsbD_blend (getLsbD_storedMask hf hs hi)]

/-- The mode's three inputs are stored as written: CLKS and IREFS are bits 7:6 and 2 of C1 (10_state.md R38). -/
theorem regWrite8_icsC1_clks (v : Byte) (s : State) :
    (regWrite8 .icsC1 v s).ics.c1.extractLsb' 6 2 = v.extractLsb' 6 2 := by
  have hbit {i : Nat} (hi : (fieldMask 8 (plainField .icsClks 6 2)).getLsbD i = true) :
      (regWrite8 .icsC1 v s).ics.c1.getLsbD i = v.getLsbD i :=
    getLsbD_get8_regWrite8 (r := .icsC1) rfl (by decide) rfl hi v
  apply BitVec.eq_of_getLsbD_eq
  intro j hj
  rw [BitVec.getLsbD_extractLsb', BitVec.getLsbD_extractLsb']
  obtain rfl | rfl : j = 0 ∨ j = 1 := by omega
  all_goals rw [hbit (by decide)]

theorem regWrite8_icsC1_irefs (v : Byte) (s : State) : (regWrite8 .icsC1 v s).ics.c1.getLsbD 2 = v.getLsbD 2 :=
  getLsbD_get8_regWrite8 (r := .icsC1) (f := plainField .icsIrefs 2 1) rfl (by decide) rfl (by decide) v

/-- LP is bit 4 of C2 (R39). -/
theorem regWrite8_icsC2_lp (w : Byte) (s : State) : (regWrite8 .icsC2 w s).ics.c2.getLsbD 4 = w.getLsbD 4 :=
  getLsbD_get8_regWrite8 (r := .icsC2) (f := plainField .icsLp 4 1) rfl (by decide) rfl (by decide) w

theorem regWrite8_icsC2_c1 (w : Byte) (s : State) : (regWrite8 .icsC2 w s).ics.c1 = s.ics.c1 :=
  get8_regWrite8_ne (r := .icsC1) (by decide) w s

/-- After both writes the mode depends on the written bits alone (45_ics.md R273, R274). -/
theorem icsMode_of_writes (v w : Byte) (s : State) : icsMode (regWrite8 .icsC2 w (regWrite8 .icsC1 v s)) =
    icsModeOf (v.extractLsb' 6 2) (v.getLsbD 2) (w.getLsbD 4) := by
  rw [icsMode, regWrite8_icsC2_c1, regWrite8_icsC1_clks, regWrite8_icsC1_irefs, regWrite8_icsC2_lp]

end Sys2Proof.Machine

namespace Sys2Proof.Claims

open Sys2Proof.Machine

/-- Settles O43: the four reads are silent and the four writes are quiet. -/
theorem icsRegistersReadAndWrite : Obligations.IcsRegistersReadAndWrite := by
  refine ⟨fun s => ⟨?_, ?_, ?_, ?_⟩, fun s v h => ⟨?_, ?_, ?_, ?_⟩⟩
  · exact exec_byteRead_silent (dev := .ics) (off := 0) rfl rfl rfl s
  · exact exec_byteRead_silent (dev := .ics) (off := 1) rfl rfl rfl s
  · exact exec_byteRead_silent (dev := .ics) (off := 2) rfl rfl rfl s
  · exact exec_byteRead_silent (dev := .ics) (off := 3) rfl rfl rfl s
  · exact exec_byteWrite_quiet (dev := .ics) (off := 0) rfl rfl rfl rfl (by decide) h
  · exact exec_byteWrite_quiet (dev := .ics) (off := 1) rfl rfl rfl rfl (by decide) h
  · exact exec_byteWrite_quiet (dev := .ics) (off := 2) rfl rfl rfl rfl (by decide) h
  · exact exec_byteWrite_quiet (dev := .ics) (off := 3) rfl rfl rfl rfl (by decide) h

/-- Settles O44: S is one read-only field computed from the parameter. -/
theorem icsStatusIsConstant : Obligations.IcsStatusIsConstant := by
  refine ⟨fun s => ?_, fun s v => ?_⟩
  · rw [exec_eq_read8 (dev := .ics) (off := 4) rfl rfl s, read8, regRead8_icsS]
    rfl
  · rw [exec_eq_write8 (dev := .ics) (off := 4) rfl rfl s, write8, regWrite8_icsS]

/-- Settles O45: the two writes fix the guards' three inputs, and on each of their sixteen values the first guard that matches is
the table's row. -/
theorem icsModeFollowsItsTable : Obligations.IcsModeFollowsItsTable := by
  intro s t u v w ht hu
  rw [exec_eq_write8 (dev := .ics) (off := 0) rfl rfl s] at ht
  cases ht
  rw [exec_eq_write8 (dev := .ics) (off := 1) rfl rfl _] at hu
  cases hu
  rw [icsMode_of_writes]
  generalize v.extractLsb' 6 2 = sel, v.getLsbD 2 = ir, w.getLsbD 4 = lp
  revert sel ir lp
  decide

end Sys2Proof.Claims
end

section
/-! The host events (46_host_events.md R290 to R295): the stored reset values that hold whatever the parameters, and the line after
the UART's reset. -/

namespace Sys2Proof.Machine

open Sys2Proof.Claims

/-- Bits of a field that holds state are within the register's stored bits. -/
theorem and_storedMask_of_field {w : Nat} {x : BitVec w} {cfg : Params} {f : Field} {fs : List Field} (hf : f ∈ fs)
    (hs : f.holdsState cfg = true) (hx : x &&& fieldMask w f = x) : x &&& storedMask w cfg fs = x := by
  apply and_eq_self_of_within
  rw [← hx, BitVec.and_assoc, fieldMask_stored hf hs]
  exact BitVec.and_zero

/-- The declared reset values of CS1 and CS2 are bits of EN and CLK, which are never tagged (10_state.md R27, R28). -/
theorem storedReset8_wdogCs1 (p : Params) : storedReset8 p .wdogCs1 = 0x80 :=
  and_storedMask_of_field (x := 0x80) (f := effectField .cs1En 7 1 .enable) (by decide) rfl (by decide)

theorem storedReset8_wdogCs2 (p : Params) : storedReset8 p .wdogCs2 = 0x01 :=
  and_storedMask_of_field (x := 0x01) (f := plainField .cs2Clk 0 2) (by decide) rfl (by decide)

/-- ENABLE is masked out of `RV_SYST_CSR` (10_state.md R23; log 16). -/
theorem storedReset32_csr_enable (p : Params) : (storedReset32 p .csr).getLsbD 0 = false := by
  simp [storedReset32, resetValue32]

/-- With `RV_UART_C2` = 0 the four enables are clear after a reset, so the formula is false whatever the buffer holds (R292). -/
theorem lineFormula_reset_of_rvUartC2_zero {p : Params} (h : p.rvUartC2 = 0) (n k : Nat) :
    lineFormula (UartRegs.reset p).c2 n k = false := by
  have hc2 : (UartRegs.reset p).c2 = 0 := by
    simp only [UartRegs.reset, storedReset8, resetValue8, h]
    exact BitVec.zero_and
  rw [hc2]
  rfl

end Sys2Proof.Machine

namespace Sys2Proof.Claims

open Sys2Proof.Machine

/-- Settles O54: the three register-file resets in closed form, with the reset values no parameter moves. -/
theorem deviceResetRestoresTheDevice : Obligations.DeviceResetRestoresTheDevice :=
  ⟨fun s => ⟨congrArg Host.Outcome.next (resetSyst_eq s), storedReset32_csr_enable s.cfg⟩,
    fun s => ⟨congrArg Host.Outcome.next (resetWdog_eq s), storedReset8_wdogCs1 s.cfg, storedReset8_wdogCs2 s.cfg⟩,
    fun s => congrArg Host.Outcome.next (resetIcs_eq s)⟩

/-- Settles O55: the recomputation runs over the reset C2, the emptied queue and the kept buffer. -/
theorem uartResetClearsQueueKeepsBuffer : Obligations.UartResetClearsQueueKeepsBuffer := fun s =>
  have hreset := (resetUart_eq s).trans (recompute_eq_lineEvents _)
  ⟨lineFormula (UartRegs.reset s.cfg).c2 s.rxbuf.length s.cfg.rxwm, congrArg Host.Outcome.next hreset, rfl,
    fun h => lineFormula_reset_of_rvUartC2_zero h _ _⟩

/-- Settles O56: the recomputation runs over the reset C2 and the emptied buffer. -/
theorem machineResetRestoresEveryDevice : Obligations.MachineResetRestoresEveryDevice := fun s =>
  have hreset := (machineReset_eq s).trans (recompute_eq_lineEvents _)
  ⟨lineFormula (UartRegs.reset s.cfg).c2 0 s.cfg.rxwm, congrArg Host.Outcome.next hreset, rfl,
    fun h => lineFormula_reset_of_rvUartC2_zero h _ _⟩

/-- Settles O57: the two branches of RXPUSH; the recomputation sees the buffer one byte longer. -/
theorem arrivingByteIsAppended : Obligations.ArrivingByteIsAppended := by
  refine fun s b => ⟨fun h => ?_, fun h => ?_⟩
  · have hpush : rxPush b s = { s with rxbuf := s.rxbuf ++ [b] } := if_neg (Bool.eq_false_iff.mp h)
    exact congrArg Host.Outcome.next hpush
  · have hpush : rxPush b s = recompute { s with rxbuf := s.rxbuf ++ [b] } := if_pos h
    have hlength : (s.rxbuf ++ [b]).length = s.rxbuf.length + 1 := List.length_append
    rw [← hlength]
    exact congrArg Host.Outcome.next (hpush.trans (recompute_eq_lineEvents _))

end Sys2Proof.Claims
end

section
/-! Which steps are enabled (60_exceptions.md R301, R305, R321): a well-formed transaction completes in every state, a refused one
has no step, and after a fault there is none. -/

namespace Sys2Proof.Machine

/-- A legal wide access covers registers that exist (20_memory.md R56). -/
theorem exists_regsAt_of_legal {dev : Device} {w : Width} {off : BitVec 8} (hd : dev ≠ .syst)
    (h : wideLegal dev w off = true) : ∃ rs, regsAt dev off.toNat w.bytes = some rs :=
  Option.isSome_iff_exists.mp ((regsAt_isSome dev hd w off).trans h)

theorem wideRead16_completes {dev : Device} {off : BitVec 8} (hd : dev ≠ .syst) (h : wideLegal dev .word off = true)
    (s : State) : ∃ t, wideRead16 dev off s = .next t := by
  obtain ⟨rs, hr⟩ := exists_regsAt_of_legal hd h
  rw [Width.bytes] at hr
  rw [wideRead16, hr]
  exact ⟨_, rfl⟩

theorem wideRead32_completes {dev : Device} {off : BitVec 8} (hd : dev ≠ .syst) (h : wideLegal dev .dword off = true)
    (s : State) : ∃ t, wideRead32 dev off s = .next t := by
  obtain ⟨rs, hr⟩ := exists_regsAt_of_legal hd h
  rw [Width.bytes] at hr
  rw [wideRead32, hr]
  exact ⟨_, rfl⟩

theorem wideWrite16_completes {dev : Device} {off : BitVec 8} (hd : dev ≠ .syst) (h : wideLegal dev .word off = true)
    (v : BitVec 16) (s : State) : ∃ t, wideWrite16 dev off v s = .next t := by
  obtain ⟨_, hr⟩ := exists_regsAt_of_legal hd h
  exact ⟨_, wideWrite16_eq hr v s⟩

theorem wideWrite32_completes {dev : Device} {off : BitVec 8} (hd : dev ≠ .syst) (h : wideLegal dev .dword off = true)
    (v : DWord) (s : State) : ∃ t, wideWrite32 dev off v s = .next t := by
  obtain ⟨_, hr⟩ := exists_regsAt_of_legal hd h
  exact ⟨_, wideWrite32_eq hr v s⟩

/-- Only a wide access looks at its legality; every other transaction completes by its definition. -/
theorem exec_completes_of_wf {i : Instr} (hw : i.wf = true) (s : State) : ∃ t, exec i s = .next t := by
  cases i with
  | rd16Wdog _ => exact wideRead16_completes (by decide) hw s
  | wr16Wdog _ v => exact wideWrite16_completes (by decide) hw v s
  | rd32Wdog _ => exact wideRead32_completes (by decide) hw s
  | wr32Wdog _ v => exact wideWrite32_completes (by decide) hw v s
  | rd16Uart _ => exact wideRead16_completes (by decide) hw s
  | wr16Uart _ v => exact wideWrite16_completes (by decide) hw v s
  | rd32Uart _ => exact wideRead32_completes (by decide) hw s
  | wr32Uart _ v => exact wideWrite32_completes (by decide) hw v s
  | rd16Ics _ => exact wideRead16_completes (by decide) hw s
  | wr16Ics _ v => exact wideWrite16_completes (by decide) hw v s
  | rd32Ics _ => exact wideRead32_completes (by decide) hw s
  | wr32Ics _ v => exact wideWrite32_completes (by decide) hw v s
  | _ => exact ⟨_, rfl⟩

theorem exec_completes_of_decode {tr : Transaction} {i : Instr} (h : decode tr = .ok i) (s : State) :
    ∃ t, exec i s = .next t := by
  obtain ⟨hwf, -⟩ := Claims.decodedTransactionEncodesBack tr i h
  exact exec_completes_of_wf hwf s

theorem step_of_fault {s : State} {r : Fault} (h : s.fault = some r) : step s = .fault r := by
  rw [step, h]

theorem step_of_decode_error {s : State} {tr : Transaction} {rest : List Transaction} {e : DecodeError}
    (hf : s.fault = none) (hp : s.pending = tr :: rest) (hd : decode tr = .error e) :
    step s = .refused (Refusal.ofDecode e) := by
  simp [step, takeTransaction, hf, hp, hd]

end Sys2Proof.Machine

namespace Sys2Proof.Claims

open Sys2Proof.Machine

/-- Settles O9: what decodes is well-formed, a well-formed transaction completes, and the step looks at the fault first. -/
theorem everyTransactionIsEnabledUntilAFault : Obligations.EveryTransactionIsEnabledUntilAFault := by
  refine ⟨fun s _ hw => exec_completes_of_wf hw s, fun s tr rest i hf hp hd => ?_, fun _ _ => step_of_fault⟩
  rw [step_of_decode hf hp hd]
  exact exec_completes_of_decode hd _

/-- Settles O8: the step answers the decoder's reason, whose code is R306's. -/
theorem refusedTransactionHasNoStep : Obligations.RefusedTransactionHasNoStep := fun _ _ _ hf hp =>
  ⟨fun hd => ⟨step_of_decode_error hf hp hd, rfl⟩, fun hd => ⟨step_of_decode_error hf hp hd, rfl⟩,
    fun hd => ⟨step_of_decode_error hf hp hd, rfl⟩, fun hd => step_of_decode_error hf hp hd⟩

end Sys2Proof.Claims
end

section
/-! The fault (60_exceptions.md R305): a tick of a Running timer with limit 0 records it, and no other transaction touches it. -/

namespace Sys2Proof.Machine

@[simp] theorem recompute_fault (s : State) : (recompute s).fault = s.fault := by rw [recompute_eq]

@[simp] theorem flush_fault (s : State) : (flush s).fault = s.fault := by rw [flush_eq]

@[simp] theorem machineReset_fault (s : State) : (machineReset s).fault = s.fault := by
  rw [machineReset_eq, recompute_fault]

theorem tick_of_limit_zero {t : TimerId} {s : State} (he : enabled t s = true) (hz : (timer t s).limit = 0) :
    tick t s = takeFault .unmodelledLimitZero s := by
  rw [tick, if_neg (by simp [he]), if_pos hz]

/-- A tick keeps the fault as it was, or records it because the timer's limit is 0 (41_timer_core.md R134). -/
theorem tick_fault_cases (t : TimerId) (s : State) :
    (tick t s).fault = s.fault ∨
      ((timer t s).limit = 0 ∧ (tick t s).fault = some .unmodelledLimitZero) := by
  obtain ⟨-, e⟩ | ⟨-, hz, e⟩ | ⟨-, -, -, e⟩ | ⟨-, -, -, e⟩ := tick_cases t s <;> rw [e]
  · exact .inl rfl
  · exact .inr ⟨hz, takeFault_fault _ s⟩
  · exact .inl (setTimer_fault t _ s)
  · exact .inl (setTimer_fault t _ _)

/-- No register access touches the fault. -/
theorem fault_eq_accessClosed (f : Option Fault) : AccessClosed fun s => s.fault = f where
  log _ _ h := h
  answer _ _ h := h
  draws _ _ h := h
  recompute s h := (recompute_fault s).trans h
  store8 r _ _ s _ _ h := (put8_fault r _ s).trans h
  store32 r _ _ s _ _ h := (put32_fault r _ s).trans h
  limit t _ s _ h := (setTimer_fault t _ s).trans h
  enqueue _ _ h := (flush_fault _).trans h
  pop _ _ _ _ h := h

/-- What a transaction can do to the fault: keep it, or record it as a tick of a timer with limit 0. -/
theorem exec_fault_cases {i : Instr} {s t : State} (e : exec i s = .next t) :
    t.fault = s.fault ∨
      ∃ tm, i = tickInstr tm ∧ (timer tm s).limit = 0 ∧ t.fault = some .unmodelledLimitZero := by
  by_cases hi : event i = false
  · exact .inl ((fault_eq_accessClosed s.fault).exec hi rfl e)
  cases i with
  | tickSyst => cases e; exact (tick_fault_cases .syst s).imp_right fun h => ⟨.syst, rfl, h⟩
  | tickWdog => cases e; exact (tick_fault_cases .wdog s).imp_right fun h => ⟨.wdog, rfl, h⟩
  | resetSyst => cases e; exact .inl (by rw [resetSyst_eq])
  | resetWdog => cases e; exact .inl (by rw [resetWdog_eq])
  | resetUart => cases e; exact .inl ((keepsOthers_resetUart s).same State.fault)
  | resetIcs => cases e; exact .inl ((keepsOthers_resetIcs s).same State.fault)
  | machineReset => cases e; exact .inl (machineReset_fault s)
  | rxpush b => cases e; exact .inl ((keepsOthers_rxPush b s).same State.fault)
  | _ => exact absurd rfl hi

end Sys2Proof.Machine

namespace Sys2Proof.Claims

open Sys2Proof.Machine

/-- Settles O52: the faulting branch of the tick at either timer; a transaction that does not keep the fault records the same
one. -/
theorem zeroLimitTickRecordsTheFault : Obligations.ZeroLimitTickRecordsTheFault := by
  refine ⟨fun _ he hz => congrArg _ (tick_of_limit_zero (t := .syst) he hz),
    fun _ he hz => congrArg _ (tick_of_limit_zero (t := .wdog) he hz), fun _ => step_of_fault, fun i s t e hf => ?_, rfl⟩
  obtain hk | ⟨_, -, -, hr⟩ := exec_fault_cases e
  · exact hk.trans hf
  · exact hr

end Sys2Proof.Claims
end

section
/-! Runs within the programming contract (60_exceptions.md R301, R321; 41_timer_core.md R134). -/

namespace Sys2Proof.Machine

/-- LimitsPositive reads the parameters and the two timers only. -/
theorem LimitsPositive.congr {s t : State} (h : LimitsPositive s) (hc : t.cfg = s.cfg) (hS : t.tS = s.tS)
    (hW : t.tW = s.tW) : LimitsPositive t := by
  unfold LimitsPositive
  rw [hc, hS, hW]
  exact h

theorem LimitsPositive.setTimer {t : TimerId} {x : Timer} {s : State} (h : LimitsPositive s) (hx : 1 ≤ x.limit) :
    LimitsPositive (setTimer t x s) := by
  obtain ⟨hr, hS0, hW0, hS, hW⟩ := h
  cases t with
  | syst => exact ⟨hr, hS0, hW0, hx, hW⟩
  | wdog => exact ⟨hr, hS0, hW0, hS, hx⟩

theorem LimitsPositive.timer {s : State} (h : LimitsPositive s) (t : TimerId) : 1 ≤ (timer t s).limit := by
  obtain ⟨-, -, -, hS, hW⟩ := h
  cases t with
  | syst => exact hS
  | wdog => exact hW

/-- A tick moves a count and no limit. -/
theorem LimitsPositive.tick {t : TimerId} {s : State} (h : LimitsPositive s) : LimitsPositive (tick t s) := by
  obtain ⟨-, e⟩ | ⟨-, -, e⟩ | ⟨-, -, -, e⟩ | ⟨-, -, -, e⟩ := tick_cases t s <;> rw [e]
  · exact h
  · exact h.congr rfl rfl rfl
  · exact h.setTimer (h.timer t)
  · exact LimitsPositive.setTimer (h.congr rfl rfl rfl) (h.timer t)

theorem LimitsPositive.resetRegs8 {s : State} (h : LimitsPositive s) (rs : List Reg8) :
    LimitsPositive (resetRegs8 s rs) :=
  h.congr (resetRegs8_cfg rs s) (resetRegs8_tS rs s) (resetRegs8_tW rs s)

/-- A reset takes the default limit. -/
theorem LimitsPositive.resetSyst {s : State} (h : LimitsPositive s) : LimitsPositive (resetSyst s) := by
  obtain ⟨hr, hS0, hW0, -, hW⟩ := h
  rw [resetSyst_eq]
  exact ⟨hr, hS0, hW0, hS0, hW⟩

theorem LimitsPositive.resetWdog {s : State} (h : LimitsPositive s) : LimitsPositive (resetWdog s) := by
  obtain ⟨hr, hS0, hW0, hS, -⟩ := h
  rw [resetWdog_eq]
  exact ⟨hr, hS0, hW0, hS, hW0⟩

/-- Positive limits are kept by every elementary update: with `P_RELOAD_SETS_LIMIT` false no register access sets a limit. -/
theorem limitsPositive_closed : Closed LimitsPositive where
  log _ _ h := h.congr rfl rfl rfl
  answer _ _ h := h.congr rfl rfl rfl
  draws _ _ h := h.congr rfl rfl rfl
  recompute s h := by
    rw [recompute_eq]
    exact h.congr rfl rfl rfl
  store8 r _ _ s _ _ h := h.congr (put8_cfg r _ s) (put8_tS r _ s) (put8_tW r _ s)
  store32 r _ _ s _ _ h := h.congr (put32_cfg r _ s) (put32_tS r _ s) (put32_tW r _ s)
  limit _ _ _ hr h := absurd (h.1.symm.trans hr) (by decide)
  enqueue _ _ h := by
    rw [flush_eq]
    exact h.congr rfl rfl rfl
  pop _ _ _ _ h := h.congr rfl rfl rfl
  push _ _ h := h.congr rfl rfl rfl
  tick _ _ h := h.tick
  resetSyst _ h := h.resetSyst
  resetWdog _ h := h.resetWdog
  resetUartRegs s h := LimitsPositive.resetRegs8 (s := { s with txq := [] }) (h.congr rfl rfl rfl) _
  resetIcs _ h := h.resetRegs8 _
  clearRx _ h := h.congr rfl rfl rfl
  resetDone _ h := h.congr rfl rfl rfl

/-- With positive limits no transaction records a fault. -/
theorem LimitsPositive.exec_fault {i : Instr} {s t : State} (h : LimitsPositive s) (e : exec i s = .next t) :
    t.fault = s.fault := by
  obtain hk | ⟨tm, -, hz, -⟩ := exec_fault_cases e
  · exact hk
  · have := h.timer tm
    omega

/-- Every transaction keeps the states from which a run goes on. -/
theorem RunsOn.exec {i : Instr} {s t : State} (h : RunsOn s) (e : exec i s = .next t) : RunsOn t := by
  obtain ⟨hf, hc, hl⟩ := h
  refine ⟨(hl.exec_fault e).trans hf, ?_, limitsPositive_closed.exec hl e⟩
  rw [HostContract, exec_pending e]
  exact hc

/-- Taking an offered transaction leaves a host that keeps its contract. -/
theorem RunsOn.take {s : State} {tr : Transaction} {rest : List Transaction} (h : RunsOn s)
    (hp : s.pending = tr :: rest) : RunsOn { s with pending := rest } := by
  obtain ⟨hf, hc, hl⟩ := h
  exact ⟨hf, fun t ht => hc t (hp ▸ List.mem_cons_of_mem tr ht), hl.congr rfl rfl rfl⟩

/-- Progress and preservation. -/
theorem RunsOn.step {s : State} (h : RunsOn s) : ∃ t, step s = .next t ∧ RunsOn t := by
  have ⟨hf, hc, _⟩ := h
  cases hp : s.pending with
  | nil => exact ⟨s, step_of_idle hf hp, h⟩
  | cons tr rest =>
    obtain ⟨i, hd⟩ := hc tr (hp ▸ List.mem_cons_self)
    obtain ⟨t, ht⟩ := exec_completes_of_decode hd { s with pending := rest }
    exact ⟨t, (step_of_decode hf hp hd).trans ht, (h.take hp).exec ht⟩

/-- A run goes on from the state its first step answers. -/
theorem run_succ_of_step {M : Host.Core} {s t : M.State} (h : M.step s = .next t) (n : Nat) :
    M.run (n + 1) s = M.run n t := by
  rw [Host.Core.run, h]

theorem RunsOn.run (n : Nat) {s : State} (h : RunsOn s) : ∃ t, Host.Core.run core n s = .next t ∧ RunsOn t := by
  induction n generalizing s with
  | zero => exact ⟨s, rfl, h⟩
  | succ n ih =>
    obtain ⟨t, ht, hrun⟩ := h.step
    obtain ⟨u, hu, hend⟩ := ih hrun
    exact ⟨u, (run_succ_of_step (M := core) ht n).trans hu, hend⟩

end Sys2Proof.Machine

namespace Sys2Proof.Claims

open Sys2Proof.Machine

/-- Settles O17: `RunsOn` gives a step and is kept by it, hence runs of any length. -/
theorem runWithinTheContractNeverStops : Obligations.RunWithinTheContractNeverStops :=
  ⟨fun _ h => h.step, fun n _ h => h.run n⟩

end Sys2Proof.Claims
end

section
/-! Why a descriptor is refused (60_exceptions.md R301, R307). -/

namespace Sys2Proof

open Sys2Proof.Claims

theorem deviceOf_eq_none_iff (n : Nat) : deviceOf n = none ↔ 4 ≤ n := by
  match n with
  | 0 | 1 | 2 | 3 => simp [deviceOf]
  | n + 4 => simp [deviceOf]

theorem widthOf_eq_none_iff (n : Nat) : widthOf n = none ↔ 3 ≤ n := by
  match n with
  | 0 | 1 | 2 => simp [widthOf]
  | n + 3 => simp [widthOf]

/-- The reason for an access whose fields are not reserved: SYST has a width rule within its 16 bytes (R301). -/
def accessReason (dev off : Nat) : DecodeError :=
  if dev = 0 ∧ off < 16 then .badWidth else .outOfRange

/-- A refused access has a reserved DEV or W, or the reason of its device and offset. -/
theorem decodeAccess_error {dev dir w off : Nat} {e : DecodeError} (h : decodeAccess dev dir w off = .error e) :
    ((4 ≤ dev ∨ 3 ≤ w) ∧ e = .illegal) ∨ (¬ (4 ≤ dev ∨ 3 ≤ w) ∧ e = accessReason dev off) := by
  unfold decodeAccess at h
  split at h
  case h_1 dv wd hd hw =>
    have hfields : ¬ (4 ≤ dev ∨ 3 ≤ w) := by
      rw [← deviceOf_eq_none_iff, ← widthOf_eq_none_iff, hd, hw]
      simp
    have hsyst : dv = .syst ↔ dev = 0 := by
      rw [← deviceOf_code hd]
      cases dv <;> decide
    refine .inr ⟨hfields, ?_⟩
    -- SYST at a multiple of 4 beyond 0xC is beyond its 16 bytes as well
    simp only [hsyst] at h
    unfold accessReason
    grind
  case h_2 hnone =>
    refine .inl ⟨?_, by cases h; rfl⟩
    rw [← deviceOf_eq_none_iff, ← widthOf_eq_none_iff]
    cases hd : deviceOf dev with
    | none => exact .inl rfl
    | some dv =>
      cases hw : widthOf w with
      | none => exact .inr rfl
      | some wd => exact absurd hw (hnone dv wd hd)

/-- A refused event is illegal. -/
theorem decodeEvent_error {dev ev arg : Nat} {e : DecodeError} (h : decodeEvent dev ev arg = .error e) :
    e = .illegal := by
  unfold decodeEvent at h
  split at h
  · cases h
  · split at h
    · cases h; rfl
    · split at h <;> cases h
      rfl

/-- R301's illegal fields are not among R76's descriptors. -/
theorem not_listed_of_illegal {d : BitVec 16} (h : IllegalFields d) : ¬ ListedDescriptor d := by
  rintro (⟨hk, hw, hdev⟩ | ⟨hk, hev⟩)
  · have hdev : descField d 11 3 < 4 := by
      simp only [List.mem_cons, List.not_mem_nil, or_false] at hdev
      omega
    rcases h with h | ⟨-, h⟩ | ⟨h, -⟩ <;> omega
  · rcases h with h | ⟨h, -⟩ | ⟨-, hrx, h⟩
    · omega
    · omega
    · exact hev.elim (not_and_or.mpr h) hrx

/-- The reason of a refused descriptor, in R307's order. -/
theorem decodeDesc_error {d : BitVec 16} {e : DecodeError} (h : decodeDesc d = .error e) :
    (IllegalFields d ∧ e = .illegal) ∨ (¬ IllegalFields d ∧ e = accessReason (descField d 11 3) (descField d 0 8)) := by
  have hw := descField_lt d 8 2
  have hlisted : ¬ ListedDescriptor d := fun hl => by
    obtain ⟨x, hx⟩ := (descriptorDecodesIffListed d).mpr hl
    cases h.symm.trans hx
  unfold decodeDesc at h
  unfold IllegalFields
  split at h
  case h_1 hk =>
    obtain ⟨hres, rfl⟩ | ⟨hres, rfl⟩ := decodeAccess_error h
    · exact .inl ⟨.inr (.inl ⟨hk, by omega⟩), rfl⟩
    · refine .inr ⟨?_, rfl⟩
      rintro (h2 | ⟨-, hill⟩ | ⟨h1, -⟩) <;> omega
  case h_2 hk =>
    exact .inl ⟨.inr (.inr ⟨hk, fun hrx => hlisted (.inr ⟨hk, .inr hrx⟩),
      not_and_or.mp fun hev => hlisted (.inr ⟨hk, .inl hev⟩)⟩), decodeEvent_error h⟩
  case h_3 h0 h1 =>
    cases h
    refine .inl ⟨.inl ?_, rfl⟩
    have hk0 : descField d 14 2 ≠ 0 := h0
    have hk1 : descField d 14 2 ≠ 1 := h1
    omega

/-- A descriptor that is not listed is refused. -/
theorem exists_decodeDesc_error {d : BitVec 16} (h : ¬ ListedDescriptor d) : ∃ e, decodeDesc d = .error e := by
  cases hd : decodeDesc d with
  | error e => exact ⟨e, rfl⟩
  | ok x => exact absurd ((descriptorDecodesIffListed d).mp ⟨x, hd⟩) h

theorem decodeDesc_of_illegal {d : BitVec 16} (h : IllegalFields d) : decodeDesc d = .error .illegal := by
  obtain ⟨e, he⟩ := exists_decodeDesc_error (not_listed_of_illegal h)
  obtain ⟨-, rfl⟩ | ⟨hn, -⟩ := decodeDesc_error he
  · exact he
  · exact absurd h hn

theorem decodeDesc_of_unlisted {d : BitVec 16} (hi : ¬ IllegalFields d) (hl : ¬ ListedDescriptor d) :
    decodeDesc d = .error (accessReason (descField d 11 3) (descField d 0 8)) := by
  obtain ⟨e, he⟩ := exists_decodeDesc_error hl
  obtain ⟨h, -⟩ | ⟨-, rfl⟩ := decodeDesc_error he
  · exact absurd h hi
  · exact he

end Sys2Proof

namespace Sys2Proof.Claims

open Sys2Proof.Machine

/-- Settles O4: the four kinds of a descriptor exclude each other, and of all transactions only a tick can change the fault. -/
theorem refusalReasonsInOrder : Obligations.RefusalReasonsInOrder := by
  refine fun d => ⟨decodeDesc_of_illegal, fun hi hl hdev => ?_, fun hi hl hdev => ?_, (descriptorDecodesIffListed d).mpr,
    fun i s t e hs ht => ?_⟩
  · rw [decodeDesc_of_unlisted hi hl]
    simp [accessReason, hdev]
  · rw [decodeDesc_of_unlisted hi hl]
    simp [accessReason, hdev]
  · obtain hk | ⟨tm, rfl, -, -⟩ := exec_fault_cases e
    · exact absurd (hk.trans hs) ht
    · cases tm with
      | syst => exact .inl rfl
      | wdog => exact .inr rfl

end Sys2Proof.Claims
end

section
/-! What moves a timer's count (70_reset_and_hazards.md R354): its tick, its device's reset and MACHINE_RESET. -/

namespace Sys2Proof.Machine

open Sys2Proof.Claims

/-- The tick of a timer keeps the count, adds one, or zeroes it at an expiry (41_timer_core.md R134). -/
theorem tick_count_cases (t : TimerId) (s : State) :
    (timer t (tick t s)).count = (timer t s).count ∨ (timer t (tick t s)).count = (timer t s).count + 1 ∨
      ((timer t (tick t s)).count = 0 ∧ (tick t s).hist = s.hist ++ expiryEvents t (irqEnabled t s)) := by
  obtain ⟨-, e⟩ | ⟨-, -, e⟩ | ⟨-, -, -, e⟩ | ⟨-, -, -, e⟩ := tick_cases t s <;> rw [e]
  · exact .inl rfl
  · exact .inl (by cases t <;> rfl)
  · exact .inr (.inl (by rw [timer_setTimer]))
  · exact .inr (.inr ⟨by rw [timer_setTimer], setTimer_hist t _ _⟩)

/-- No register access moves a count: the one write effect on a timer sets its limit (41_timer_core.md R145). -/
theorem counts_eq_accessClosed (m n : Nat) : AccessClosed fun s => s.tS.count = m ∧ s.tW.count = n where
  log _ _ h := h
  answer _ _ h := h
  draws _ _ h := h
  recompute s h := by rwa [recompute_eq]
  store8 r _ _ s _ _ h := by rwa [put8_tS, put8_tW]
  store32 r _ _ s _ _ h := by rwa [put32_tS, put32_tW]
  limit t _ _ _ h := by cases t <;> exact h
  enqueue _ _ h := by rwa [flush_eq]
  pop _ _ _ _ h := h

theorem exec_counts_of_access {i : Instr} (hi : event i = false) {s t : State} (e : exec i s = .next t) :
    t.tS.count = s.tS.count ∧ t.tW.count = s.tW.count :=
  (counts_eq_accessClosed s.tS.count s.tW.count).exec hi ⟨rfl, rfl⟩ e

/-- An event of another device leaves the SYST timer as it was. -/
theorem exec_tS_of_event {i : Instr} (hi : event i = true) (ht : i ≠ .tickSyst) (hr : i ≠ .resetSyst)
    (hm : i ≠ .machineReset) {s t : State} (e : exec i s = .next t) : t.tS = s.tS := by
  cases i with
  | tickSyst => exact absurd rfl ht
  | resetSyst => exact absurd rfl hr
  | machineReset => exact absurd rfl hm
  | tickWdog => cases e; exact (keepsOthers_tick_wdog s).same State.tS
  | resetWdog => cases e; exact (keepsOthers_resetWdog s).same State.tS
  | resetUart => cases e; exact (keepsOthers_resetUart s).same State.tS
  | resetIcs => cases e; exact (keepsOthers_resetIcs s).same State.tS
  | rxpush b => cases e; exact (keepsOthers_rxPush b s).same State.tS
  | _ => cases hi

/-- The same of the WDOG timer. -/
theorem exec_tW_of_event {i : Instr} (hi : event i = true) (ht : i ≠ .tickWdog) (hr : i ≠ .resetWdog)
    (hm : i ≠ .machineReset) {s t : State} (e : exec i s = .next t) : t.tW = s.tW := by
  cases i with
  | tickWdog => exact absurd rfl ht
  | resetWdog => exact absurd rfl hr
  | machineReset => exact absurd rfl hm
  | tickSyst => cases e; exact (keepsOthers_tick_syst s).same State.tW
  | resetSyst => cases e; exact (keepsOthers_resetSyst s).same State.tW
  | resetUart => cases e; exact (keepsOthers_resetUart s).same State.tW
  | resetIcs => cases e; exact (keepsOthers_resetIcs s).same State.tW
  | rxpush b => cases e; exact (keepsOthers_rxPush b s).same State.tW
  | _ => cases hi

end Sys2Proof.Machine

namespace Sys2Proof.Claims

open Sys2Proof.Machine

/-- Settles O19: accesses keep both counts, events of another device keep the timer, and the tick has three outcomes. -/
theorem softwareCannotRestartATimer : Obligations.SoftwareCannotRestartATimer := by
  refine ⟨fun i s t e ht hr hm => ?_, fun i s t e ht hr hm => ?_, fun s t e => ?_, fun s t e => ?_⟩
  · cases hi : event i with
    | false => exact (exec_counts_of_access hi e).1
    | true => rw [exec_tS_of_event hi ht hr hm e]
  · cases hi : event i with
    | false => exact (exec_counts_of_access hi e).2
    | true => rw [exec_tW_of_event hi ht hr hm e]
  · cases e
    exact tick_count_cases .syst s
  · cases e
    exact tick_count_cases .wdog s

end Sys2Proof.Claims
end

section
/-! Reading S1 before D (70_reset_and_hazards.md R353): bytes that arrive in between only join the end of the receive buffer. -/

namespace Sys2Proof.Machine

open Sys2Proof.Claims

@[simp] theorem rxPush_rxbuf (b : Byte) (s : State) : (rxPush b s).rxbuf = s.rxbuf ++ [b] := by
  rw [rxPush, recompute_eq]
  split <;> rfl

@[simp] theorem rxPush_uart (b : Byte) (s : State) : (rxPush b s).uart = s.uart := by
  rw [rxPush, recompute_eq]
  split <;> rfl

theorem exec_rxpush (b : Byte) (s : State) : exec (.rxpush b) s = .next (rxPush b s) := by
  rfl

/-- A run of arrivals appends the bytes and touches no UART register. -/
theorem runAll_rxpush (bs : List Byte) (s : State) :
    ∃ u, runAll (bs.map .rxpush) s = .next u ∧ u.rxbuf = s.rxbuf ++ bs ∧ u.uart = s.uart := by
  induction bs generalizing s with
  | nil => exact ⟨s, rfl, (List.append_nil _).symm, rfl⟩
  | cons b bs ih =>
    obtain ⟨u, hu, hbuf, huart⟩ := ih (rxPush b s)
    refine ⟨u, (runAll_cons (exec_rxpush b s) _).trans hu, ?_, huart.trans (rxPush_uart b s)⟩
    rw [hbuf, rxPush_rxbuf, List.append_assoc, List.singleton_append]

/-- Bit 5 of an S1 read is RDRF, and the read changes the result only (44_uart.md R225, R230). -/
theorem exec_rd8UartS1_rdrf {s t : State} {x : Byte} (e : exec .rd8UartS1 s = .next t) (hx : t.rdata = .byte x) :
    t = answer (.byte x) s ∧ x.getLsbD 5 = rdrf s := by
  have hbit : ∀ a b c : Bool, (BitVec.ofBool a ++ BitVec.ofBool b ++ BitVec.ofBool c ++ 0#5).getLsbD 5 = c := by decide
  rw [exec_eq_read8 (dev := .uart) (off := 4) rfl rfl s, read8, regRead8_uartS1] at e
  cases e
  cases hx
  exact ⟨rfl, hbit _ _ _⟩

/-- With a watermark of at least 1, RDRF = 1 means a received byte (R225). -/
theorem exists_rxbuf_cons_of_rdrf {s : State} (hw : 1 ≤ s.cfg.rxwm) (h : rdrf s = true) :
    ∃ b rest, s.rxbuf = b :: rest := by
  have hlen : s.cfg.rxwm ≤ s.rxbuf.length := of_decide_eq_true h
  exact List.exists_cons_of_length_pos (by omega)

end Sys2Proof.Machine

namespace Sys2Proof.Claims

open Sys2Proof.Machine

/-- Settles O42: RDRF gives a head, the arrivals leave it in front with RE as it was, and the D read takes it. -/
theorem statusReadBeforeDataGuaranteesAByte : Obligations.StatusReadBeforeDataGuaranteesAByte := by
  intro s t x bs hw hre e hx hbit
  obtain ⟨rfl, hrdrf⟩ := exec_rd8UartS1_rdrf e hx
  obtain ⟨b, rest, hbuf⟩ := exists_rxbuf_cons_of_rdrf hw (hrdrf.symm.trans hbit)
  obtain ⟨u, hu, hbuf', huart⟩ := runAll_rxpush bs (answer (.byte x) s)
  have hhead : u.rxbuf = b :: (rest ++ bs) := by rw [hbuf', answer_rxbuf, hbuf, List.cons_append]
  have hen : rxEnabled u = true := by rwa [rxEnabled, huart]
  refine ⟨b, rest, u, _, hbuf, hu, exec_rd8UartD u, ?_, ?_⟩
  · rw [answer_rdata, readData_of_cons hen hhead]
  · rw [answer_rxbuf, readData_of_cons hen hhead, recompute_eq]

end Sys2Proof.Claims
end

section
/-! Reads after MACHINE_RESET (70_reset_and_hazards.md R331): each register holds its stored reset value, and under the defaults of
10_state.md R47 those are the default parameters' own, but for the trim byte C3. -/

namespace Sys2Proof.Machine

open Sys2Proof.Claims

/-- MACHINE_RESET leaves the registers as construction does (46_host_events.md R294). -/
theorem get8_machineReset (r : Reg8) (s : State) : get8 r (machineReset s) = storedReset8 s.cfg r := by
  rw [machineReset_eq, get8_recompute, ← get8_construct]
  cases r <;> rfl

theorem get32_machineReset (r : Reg32) (s : State) : get32 r (machineReset s) = storedReset32 s.cfg r := by
  rw [machineReset_eq, recompute_eq, ← get32_construct]
  cases r <;> rfl

@[simp] theorem machineReset_cfg (s : State) : (machineReset s).cfg = s.cfg := by
  rw [machineReset_eq, recompute_cfg]

/-- A stored reset value shows whole in the bits that hold state (40_regfile.md R94). -/
theorem storedReset8_and_storedMask (p : Params) (r : Reg8) :
    storedReset8 p r &&& storedMask 8 p (fields8 r) = storedReset8 p r :=
  and_eq_self_of_within (and_within _ _)

theorem storedReset32_and_storedMask (p : Params) (r : Reg32) :
    storedReset32 p r &&& storedMask 32 p (fields32 r) = storedReset32 p r :=
  and_eq_self_of_within (and_within _ _)

/-- `DefaultResetValues` gives every byte register but C3 the default parameters' reset value (10_state.md R47). -/
theorem resetValue8_of_default {p : Params} (h : DefaultResetValues p) {r : Reg8} (hr : r ≠ .icsC3) :
    resetValue8 p r = resetValue8 defaultParams r := by
  obtain ⟨-, -, -, -, hcnth, hcntl, htovalh, htovall, hwinh, hwinl, hbdh, hbdl, hc1, hc2, hs2, hc3, hd, hics1, hics2, hics4,
    -⟩ := h
  cases r with
  | wdogCs1 | wdogCs2 | uartS1 | icsS => rfl
  | icsC3 => exact absurd rfl hr
  | _ => assumption

theorem resetValue32_of_default {p : Params} (h : DefaultResetValues p) (r : Reg32) :
    resetValue32 p r = resetValue32 defaultParams r := by
  obtain ⟨-, hcsr, hrvr, hcvr, -⟩ := h
  cases r with
  | csr => rw [resetValue32, hcsr]; rfl
  | rvr => exact hrvr
  | cvr => exact hcvr
  | calib => rfl

theorem storedReset8_of_default {p : Params} (h : DefaultResetValues p) {r : Reg8} (hr : r ≠ .icsC3) :
    storedReset8 p r = storedReset8 defaultParams r := by
  rw [storedReset8, resetValue8_of_default h hr, storedMask_congr (q := defaultParams) h.1, storedReset8]

theorem storedReset32_of_default {p : Params} (h : DefaultResetValues p) (r : Reg32) :
    storedReset32 p r = storedReset32 defaultParams r := by
  rw [storedReset32, resetValue32_of_default h, storedMask_congr (q := defaultParams) h.1, storedReset32]

/-- C3 keeps all of its parameter: its one field is the whole byte (log 7). -/
theorem storedReset8_icsC3 {p : Params} (h : DefaultResetValues p) : storedReset8 p .icsC3 = p.rvIcsC3 := by
  rw [storedReset8, storedMask_congr (q := defaultParams) h.1]
  exact BitVec.and_allOnes

/-- What a byte read returns, and what a SYST read returns. -/
theorem reads_of_regRead8 {dev : Device} {off : Nat} {i : Instr} {r : Reg8} (hi : byteRead dev off = some i)
    (hr : byteReg dev off = some r) {s : State} {b : Byte} (h : (regRead8 r s).1 = b) : Reads i s (.byte b) :=
  ⟨_, exec_eq_read8 hi hr s, congrArg Data.byte h⟩

theorem reads_of_regRead32 {off : Nat} {i : Instr} {r : Reg32} (hi : systRead off = some i)
    (hr : systReg off = some r) {s : State} {v : DWord} (h : (regRead32 r s).1 = v) : Reads i s (.dword v) :=
  ⟨_, exec_eq_read32 hi hr s, congrArg Data.dword h⟩

/-- The registers whose read shows their stored bits. -/
theorem regRead8_machineReset {r : Reg8} (hs : (fields8 r).all Field.silent = true) (s : State) :
    (regRead8 r (machineReset s)).1 = storedReset8 s.cfg r := by
  rw [regRead8_silent r hs, get8_machineReset, machineReset_cfg, storedReset8_and_storedMask]

theorem regRead32_machineReset {r : Reg32} (hs : (fields32 r).all Field.silent = true) (s : State) :
    (regRead32 r (machineReset s)).1 = storedReset32 s.cfg r := by
  rw [regRead32_silent r hs, get32_machineReset, machineReset_cfg, storedReset32_and_storedMask]

/-- Such a register other than C3 reads the default parameters' stored reset value. -/
theorem reads8_of_default {dev : Device} {off : Nat} {i : Instr} {r : Reg8} (hi : byteRead dev off = some i)
    (hr : byteReg dev off = some r) (hs : (fields8 r).all Field.silent = true) (hc : r ≠ .icsC3) {s : State}
    (h : DefaultResetValues s.cfg) : Reads i (machineReset s) (.byte (storedReset8 defaultParams r)) :=
  reads_of_regRead8 hi hr ((regRead8_machineReset hs s).trans (storedReset8_of_default h hc))

theorem reads32_of_default {off : Nat} {i : Instr} {r : Reg32} (hi : systRead off = some i) (hr : systReg off = some r)
    (hs : (fields32 r).all Field.silent = true) {s : State} (h : DefaultResetValues s.cfg) :
    Reads i (machineReset s) (.dword (storedReset32 defaultParams r)) :=
  reads_of_regRead32 hi hr ((regRead32_machineReset hs s).trans (storedReset32_of_default h r))

/-! The computed reads: the counters by `P_CURRENT_READ`, S1 from the empty queue and buffer, D with RE = 0, and S. -/

@[simp] theorem machineReset_tS (s : State) : (machineReset s).tS = ⟨0, s.cfg.systLimit0⟩ := by
  rw [machineReset_eq, recompute_eq]

@[simp] theorem machineReset_tW (s : State) : (machineReset s).tW = ⟨0, s.cfg.wdogLimit0⟩ := by
  rw [machineReset_eq, recompute_eq]

@[simp] theorem machineReset_txq (s : State) : (machineReset s).txq = [] := by rw [machineReset_eq, recompute_eq]

@[simp] theorem machineReset_rxbuf (s : State) : (machineReset s).rxbuf = [] := by rw [machineReset_eq, recompute_eq]

/-- A draw from two equal values gives that value in every mode. -/
theorem drawCurrent_self {w : Nat} (x : BitVec w) (s : State) : (drawCurrent x x s).1 = x := by
  obtain ⟨-, e⟩ | ⟨-, e⟩ | ⟨-, e | e⟩ := drawCurrent_cases x x s <;> rw [e]

theorem drawCurrent_of_live {w : Nat} {s : State} (h : s.cfg.currentRead = .live) (stored live : BitVec w) :
    drawCurrent stored live s = (live, s) := by
  rw [drawCurrent, h]

theorem regRead8_cnth_machineReset {s : State} (h : DefaultResetValues s.cfg) :
    (regRead8 .wdogCnth (machineReset s)).1 = 0 := by
  have hstored : (machineReset s).wdog.cnth = 0 :=
    (get8_machineReset .wdogCnth s).trans (storedReset8_of_default h (by decide))
  have hlive : (liveWdog (machineReset s)).extractLsb' 8 8 = 0 := by simp [liveWdog_high]
  rw [regRead8_cnth, hstored, hlive, drawCurrent_self]

theorem regRead8_cntl_machineReset {s : State} (h : DefaultResetValues s.cfg) :
    (regRead8 .wdogCntl (machineReset s)).1 = 0 := by
  have hstored : (machineReset s).wdog.cntl = 0 :=
    (get8_machineReset .wdogCntl s).trans (storedReset8_of_default h (by decide))
  have hlive : (liveWdog (machineReset s)).extractLsb' 0 8 = 0 := by simp [liveWdog_low]
  rw [regRead8_cntl, hstored, hlive, drawCurrent_self]

theorem regRead32_cvr_machineReset_of_stored {s : State} (h : DefaultResetValues s.cfg)
    (hm : s.cfg.currentRead = .stored) : (regRead32 .cvr (machineReset s)).1 = 0 := by
  have hstored : (machineReset s).syst.cvr = 0 := (get32_machineReset .cvr s).trans (storedReset32_of_default h .cvr)
  rw [regRead32_cvr, drawCurrent_of_stored ((machineReset_cfg s).symm ▸ hm), currentField, hstored]
  rfl

/-- The count starts from 0, so the live value is the default limit's low 24 bits (41_timer_core.md R146). -/
theorem regRead32_cvr_machineReset_of_live {s : State} (hm : s.cfg.currentRead = .live) :
    (regRead32 .cvr (machineReset s)).1 = BitVec.ofNat 32 (s.cfg.systLimit0 % 2 ^ 24) := by
  rw [regRead32_cvr, drawCurrent_of_live ((machineReset_cfg s).symm ▸ hm), ← BitVec.ofNat_toNat,
    liveSyst_toNat (by simp), machineReset_tS, Nat.sub_zero]

/-- With the queue empty TDRE and TC are 1, and with the buffer empty RDRF is 0 at any watermark of at least 1. -/
theorem regRead8_uartS1_machineReset {s : State} (hw : 1 ≤ s.cfg.rxwm) :
    (regRead8 .uartS1 (machineReset s)).1 = 0xC0 := by
  have htdre : tdre (machineReset s) = true := by simp [tdre]
  have htc : tc (machineReset s) = true := by simp [tc]
  have hrdrf : rdrf (machineReset s) = false := by simp [rdrf]; omega
  rw [regRead8_uartS1, htdre, htc, hrdrf]
  rfl

/-- RE is 0 after the reset, so D reads 0 (44_uart.md R239). -/
theorem regRead8_uartD_machineReset {s : State} (h : DefaultResetValues s.cfg) :
    (regRead8 .uartD (machineReset s)).1 = 0 := by
  have hc2 : (machineReset s).uart.c2 = 0 :=
    (get8_machineReset .uartC2 s).trans (storedReset8_of_default h (by decide))
  rw [regRead8_uartD, readData_of_disabled (by rw [rxEnabled, hc2]; rfl)]

/-- C1 and C2 select FEI (45_ics.md R271). -/
theorem icsMode_machineReset {s : State} (h : DefaultResetValues s.cfg) : icsMode (machineReset s) = .fei := by
  have hc1 : (machineReset s).ics.c1 = 0x04 :=
    (get8_machineReset .icsC1 s).trans (storedReset8_of_default h (by decide))
  have hc2 : (machineReset s).ics.c2 = 0x20 :=
    (get8_machineReset .icsC2 s).trans (storedReset8_of_default h (by decide))
  rw [icsMode, hc1, hc2]
  rfl

theorem rvIcsS_of_default {p : Params} (h : DefaultResetValues p) : p.rvIcsS = 0x10 := by
  obtain ⟨-, -, -, -, -, -, -, -, -, -, -, -, -, -, -, -, -, -, -, -, hs⟩ := h
  exact hs

end Sys2Proof.Machine

namespace Sys2Proof.Claims

open Sys2Proof.Machine

/-- Settles O58: the stored registers by their stored reset values, the computed reads one by one. -/
theorem readsAfterMachineReset : Obligations.ReadsAfterMachineReset := by
  intro s h
  refine ⟨machineReset s, rfl, reads32_of_default (off := 0) rfl rfl rfl h, reads32_of_default (off := 4) rfl rfl rfl h,
    fun hm => reads_of_regRead32 (off := 8) rfl rfl (regRead32_cvr_machineReset_of_stored h hm),
    fun hm => reads_of_regRead32 (off := 8) rfl rfl (regRead32_cvr_machineReset_of_live hm),
    reads_of_regRead32 (off := 12) rfl rfl (by rw [regRead32_calib, machineReset_cfg]),
    reads8_of_default (dev := .wdog) (off := 0) rfl rfl rfl (by decide) h,
    reads8_of_default (dev := .wdog) (off := 1) rfl rfl rfl (by decide) h,
    reads_of_regRead8 (dev := .wdog) (off := 2) rfl rfl (regRead8_cnth_machineReset h),
    reads_of_regRead8 (dev := .wdog) (off := 3) rfl rfl (regRead8_cntl_machineReset h),
    reads8_of_default (dev := .wdog) (off := 4) rfl rfl rfl (by decide) h,
    reads8_of_default (dev := .wdog) (off := 5) rfl rfl rfl (by decide) h,
    reads8_of_default (dev := .wdog) (off := 6) rfl rfl rfl (by decide) h,
    reads8_of_default (dev := .wdog) (off := 7) rfl rfl rfl (by decide) h,
    reads8_of_default (dev := .uart) (off := 0) rfl rfl rfl (by decide) h,
    reads8_of_default (dev := .uart) (off := 1) rfl rfl rfl (by decide) h,
    reads8_of_default (dev := .uart) (off := 2) rfl rfl rfl (by decide) h,
    reads8_of_default (dev := .uart) (off := 3) rfl rfl rfl (by decide) h,
    fun hw => reads_of_regRead8 (dev := .uart) (off := 4) rfl rfl (regRead8_uartS1_machineReset hw),
    reads8_of_default (dev := .uart) (off := 5) rfl rfl rfl (by decide) h,
    reads8_of_default (dev := .uart) (off := 6) rfl rfl rfl (by decide) h,
    reads_of_regRead8 (dev := .uart) (off := 7) rfl rfl (regRead8_uartD_machineReset h),
    reads8_of_default (dev := .ics) (off := 0) rfl rfl rfl (by decide) h,
    reads8_of_default (dev := .ics) (off := 1) rfl rfl rfl (by decide) h,
    reads_of_regRead8 (dev := .ics) (off := 2) rfl rfl ((regRead8_machineReset rfl s).trans (storedReset8_icsC3 h)),
    reads8_of_default (dev := .ics) (off := 3) rfl rfl rfl (by decide) h,
    reads_of_regRead8 (dev := .ics) (off := 4) rfl rfl (by rw [regRead8_icsS, machineReset_cfg, rvIcsS_of_default h]),
    icsMode_machineReset h⟩

end Sys2Proof.Claims
end
